-- ==== Sys2Proof/Word.lean ====
section
/-! DEFINITION. The widths of the machine (00_scope.md rule R7). -/

namespace Sys2Proof

/-- An 8-bit quantity: bus data, an opcode, a register half (00_scope.md rule R7). -/
abbrev Byte := BitVec 8

/-- A 16-bit quantity: a register or an address; its arithmetic is modulo 65536
(00_scope.md rules R7 and R10). -/
abbrev Word := BitVec 16

end Sys2Proof
end

