-- ==== Sys2Proof/Config.lean ====
section
/-! DEFINITION. What the platform fixes: the construction parameters of a device and the reference
platform P0 (00_scope.md rule R8, 20_memory.md rules R77 and R95). -/

namespace Sys2Proof

/-- The construction parameters of a device, all but its backing store (20_memory.md rule R77; the
flag `writable` is that of rule R101). -/
structure DeviceConfig where
  mountBase : Word
  windowSize : Word
  writable : Bool
deriving DecidableEq, Repr

/-- The reference platform: one writable device at 0x0000 of size 0x8000 (20_memory.md rule R95).
DESIGN CHOICE, unsafe: the platform that `State.reset` mounts (log 2). -/
def Config.p0 : List DeviceConfig := [⟨0x0000, 0x8000, true⟩]

/-- What an offset that a store does not list reads as. DESIGN CHOICE, unsafe: `InitialImage` is
open (70_reset_and_hazards.md rule R444), and the zero is the convention of that rule (log 3). -/
def Config.unlistedByte : Byte := 0x00

end Sys2Proof
end

