-- ==== Sys2Proof/Syntax.lean ====
section
/-! DEFINITION. The instruction set as syntax: one constructor of `Instr` per row of
spec/opcode_table.json, in the table's order, with the operands the instruction stream carries
(30_encoding.md rules R121, R122, R128). Register names and halves are in the mnemonic, so no
constructor takes a register operand (30_encoding.md rule R129). -/

namespace Sys2Proof

/-- The seven registers of the register file (10_state.md rule R30), in the order of rule R32. -/
inductive Reg where
  | pc | stk | adr | a | b | x | y
deriving DecidableEq, Repr

/-- The two halves of a register: `lo` is bits 7:0, `hi` is bits 15:8 (10_state.md rule R31). -/
inductive Part where
  | lo | hi
deriving DecidableEq, Repr

/-- A register half, the operand of the half families (00_scope.md rule R11). -/
structure Half where
  reg : Reg
  part : Part
deriving DecidableEq, Repr

/-- The instructions. The docstring of a constructor names the rule of its meaning. -/
inductive Instr where
  /-- R391, opcode 0x01. -/
  | halt
  /-- R201, opcode 0x12. -/
  | setstk (imm16 : Word)
  /-- R202, opcode 0x16. -/
  | seta (imm16 : Word)
  /-- R203, opcode 0x18. -/
  | setb (imm16 : Word)
  /-- R204, opcode 0x1A. -/
  | setx (imm16 : Word)
  /-- R205, opcode 0x1C. -/
  | sety (imm16 : Word)
  /-- R222, opcode 0x26. -/
  | ldal (abs16 : Word)
  /-- R223, opcode 0x27. -/
  | ldah (abs16 : Word)
  /-- R224, opcode 0x28. -/
  | ldbl (abs16 : Word)
  /-- R225, opcode 0x29. -/
  | ldbh (abs16 : Word)
  /-- R226, opcode 0x2A. -/
  | ldxl (abs16 : Word)
  /-- R227, opcode 0x2B. -/
  | ldxh (abs16 : Word)
  /-- R228, opcode 0x2C. -/
  | ldyl (abs16 : Word)
  /-- R229, opcode 0x2D. -/
  | ldyh (abs16 : Word)
  /-- R232, opcode 0x36. -/
  | stal (abs16 : Word)
  /-- R233, opcode 0x37. -/
  | stah (abs16 : Word)
  /-- R234, opcode 0x38. -/
  | stbl (abs16 : Word)
  /-- R235, opcode 0x39. -/
  | stbh (abs16 : Word)
  /-- R236, opcode 0x3A. -/
  | stxl (abs16 : Word)
  /-- R237, opcode 0x3B. -/
  | stxh (abs16 : Word)
  /-- R238, opcode 0x3C. -/
  | styl (abs16 : Word)
  /-- R239, opcode 0x3D. -/
  | styh (abs16 : Word)
  /-- R252, opcode 0x46. -/
  | lxal
  /-- R253, opcode 0x47. -/
  | lxah
  /-- R254, opcode 0x48. -/
  | lxbl
  /-- R255, opcode 0x49. -/
  | lxbh
  /-- R256, opcode 0x4A. -/
  | lxxl
  /-- R257, opcode 0x4B. -/
  | lxxh
  /-- R258, opcode 0x4C. -/
  | lxyl
  /-- R259, opcode 0x4D. -/
  | lxyh
  /-- R262, opcode 0x56. -/
  | lyal
  /-- R263, opcode 0x57. -/
  | lyah
  /-- R264, opcode 0x58. -/
  | lybl
  /-- R265, opcode 0x59. -/
  | lybh
  /-- R266, opcode 0x5A. -/
  | lyxl
  /-- R267, opcode 0x5B. -/
  | lyxh
  /-- R268, opcode 0x5C. -/
  | lyyl
  /-- R269, opcode 0x5D. -/
  | lyyh
  /-- R332, opcode 0x66. -/
  | pushal
  /-- R333, opcode 0x67. -/
  | pushah
  /-- R334, opcode 0x68. -/
  | pushbl
  /-- R335, opcode 0x69. -/
  | pushbh
  /-- R336, opcode 0x6A. -/
  | pushxl
  /-- R337, opcode 0x6B. -/
  | pushxh
  /-- R338, opcode 0x6C. -/
  | pushyl
  /-- R339, opcode 0x6D. -/
  | pushyh
  /-- R342, opcode 0x76. -/
  | popal
  /-- R343, opcode 0x77. -/
  | popah
  /-- R344, opcode 0x78. -/
  | popbl
  /-- R345, opcode 0x79. -/
  | popbh
  /-- R346, opcode 0x7A. -/
  | popxl
  /-- R347, opcode 0x7B. -/
  | popxh
  /-- R348, opcode 0x7C. -/
  | popyl
  /-- R349, opcode 0x7D. -/
  | popyh
  /-- R281, opcode 0x81. -/
  | add
  /-- R282, opcode 0x82. -/
  | sub
  /-- R283, opcode 0x83. -/
  | mul
  /-- R284, opcode 0x84. -/
  | div
  /-- R286, opcode 0x88. -/
  | incx
  /-- R287, opcode 0x89. -/
  | decx
  /-- R288, opcode 0x8A. -/
  | incy
  /-- R289, opcode 0x8B. -/
  | decy
  /-- R303, opcode 0x90. -/
  | jmpr (rel8 : Byte)
  /-- R304, opcode 0x91. -/
  | jeqr (rel8 : Byte)
  /-- R305, opcode 0x92. -/
  | jgtr (rel8 : Byte)
  /-- R306, opcode 0x93. -/
  | jltr (rel8 : Byte)
  /-- R308, opcode 0xA0. -/
  | jmp (abs16 : Word)
  /-- R309, opcode 0xA1. -/
  | jeq (abs16 : Word)
  /-- R311, opcode 0xA2. -/
  | jgt (abs16 : Word)
  /-- R312, opcode 0xA3. -/
  | jlt (abs16 : Word)
  /-- R310, opcode 0xA8. -/
  | call (abs16 : Word)
  /-- R313, opcode 0xA9. -/
  | ret
  /-- R362, opcode 0xB8. -/
  | tab
  /-- R363, opcode 0xBA. -/
  | tax
  /-- R364, opcode 0xBC. -/
  | tay
  /-- R365, opcode 0xC6. -/
  | tba
  /-- R366, opcode 0xCA. -/
  | tbx
  /-- R367, opcode 0xCC. -/
  | tby
  /-- R368, opcode 0xD6. -/
  | txa
  /-- R369, opcode 0xD8. -/
  | txb
  /-- R370, opcode 0xDC. -/
  | txy
  /-- R371, opcode 0xE6. -/
  | tya
  /-- R372, opcode 0xE8. -/
  | tyb
  /-- R373, opcode 0xEA. -/
  | tyx
deriving DecidableEq, Repr

end Sys2Proof
end

