-- ==== Sys2Proof/WellFormed.lean ====
section
/-! DEFINITION. Well-formedness: of instructions (every term of `Instr` is well formed, because no
operand value is illegal) and of platforms (20_memory.md rules R79 and R86). -/

namespace Sys2Proof

/-- Every value of every operand is accepted (30_encoding.md rule R132), and the operand's width is
in its type, so no term of `Instr` is ill formed. -/
def Instr.wf (_ : Instr) : Bool := true

/-- A window ends at or below the top of the address space (20_memory.md rule R79). -/
def DeviceConfig.fits (d : DeviceConfig) : Bool :=
  decide (d.mountBase.toNat + d.windowSize.toNat ≤ 65536)

/-- Two windows that both fit share no address (20_memory.md rule R86). A window of size 0 holds no
address. -/
def DeviceConfig.disjoint (d e : DeviceConfig) : Bool :=
  decide (d.windowSize = 0) || decide (e.windowSize = 0)
    || decide (d.mountBase.toNat + d.windowSize.toNat ≤ e.mountBase.toNat)
    || decide (e.mountBase.toNat + e.windowSize.toNat ≤ d.mountBase.toNat)

/-- A well-formed platform: every window fits, and the windows are pairwise disjoint (20_memory.md
rules R79 and R86; 93_implementation_defined.md U1). -/
def platformWf : List DeviceConfig → Bool
  | [] => true
  | d :: ds => d.fits && ds.all d.disjoint && platformWf ds

end Sys2Proof
end

