-- ==== Sys2Proof/Decode.lean ====
section
/-! DEFINITION. The decoder and the encoder of 30_encoding.md, with the byte-order and
sign-extension helpers they and the meanings use. The decoder reads the opcode map of rule R127;
the encoder writes the bytes of the list of rule R128. -/

namespace Sys2Proof

/-- `lo(w) = w[7:0]` (00_scope.md rule R9). -/
def loByte (w : Word) : Byte := w.extractLsb' 0 8

/-- `hi(w) = w[15:8]` (00_scope.md rule R9). -/
def hiByte (w : Word) : Byte := w.extractLsb' 8 8

/-- The concatenation with `h` in the more significant position (00_scope.md rule R9); the 16-bit
operand of the bytes at `P + 2` and `P + 1` (30_encoding.md rule R124). -/
def joinBytes (h l : Byte) : Word := h ++ l

/-- `sext_16`, the two's-complement sign extension of a byte (00_scope.md rule R10, log 9). -/
def sext16 (v : Byte) : Word := v.signExtend 16

/-- The three formats of 30_encoding.md rule R121: F0 has no operand byte, F1 the byte `rel8`,
F2 the two bytes of a 16-bit operand, low byte first. -/
inductive Form where
  | f0 (i : Instr)
  | f1 (mk : Byte → Instr)
  | f2 (mk : Word → Instr)

/-- The legal opcodes with high nibble 0x0 (30_encoding.md rule R127). -/
def mapRow0 : List (Byte × Form) :=
  [(0x01, .f0 .halt)]

/-- The legal opcodes with high nibble 0x1 (30_encoding.md rule R127). -/
def mapRow1 : List (Byte × Form) :=
  [(0x12, .f2 .setstk), (0x16, .f2 .seta), (0x18, .f2 .setb), (0x1A, .f2 .setx),
   (0x1C, .f2 .sety)]

/-- The legal opcodes with high nibble 0x2 (30_encoding.md rule R127). -/
def mapRow2 : List (Byte × Form) :=
  [(0x26, .f2 .ldal), (0x27, .f2 .ldah), (0x28, .f2 .ldbl), (0x29, .f2 .ldbh),
   (0x2A, .f2 .ldxl), (0x2B, .f2 .ldxh), (0x2C, .f2 .ldyl), (0x2D, .f2 .ldyh)]

/-- The legal opcodes with high nibble 0x3 (30_encoding.md rule R127). -/
def mapRow3 : List (Byte × Form) :=
  [(0x36, .f2 .stal), (0x37, .f2 .stah), (0x38, .f2 .stbl), (0x39, .f2 .stbh),
   (0x3A, .f2 .stxl), (0x3B, .f2 .stxh), (0x3C, .f2 .styl), (0x3D, .f2 .styh)]

/-- The legal opcodes with high nibble 0x4 (30_encoding.md rule R127). -/
def mapRow4 : List (Byte × Form) :=
  [(0x46, .f0 .lxal), (0x47, .f0 .lxah), (0x48, .f0 .lxbl), (0x49, .f0 .lxbh),
   (0x4A, .f0 .lxxl), (0x4B, .f0 .lxxh), (0x4C, .f0 .lxyl), (0x4D, .f0 .lxyh)]

/-- The legal opcodes with high nibble 0x5 (30_encoding.md rule R127). -/
def mapRow5 : List (Byte × Form) :=
  [(0x56, .f0 .lyal), (0x57, .f0 .lyah), (0x58, .f0 .lybl), (0x59, .f0 .lybh),
   (0x5A, .f0 .lyxl), (0x5B, .f0 .lyxh), (0x5C, .f0 .lyyl), (0x5D, .f0 .lyyh)]

/-- The legal opcodes with high nibble 0x6 (30_encoding.md rule R127). -/
def mapRow6 : List (Byte × Form) :=
  [(0x66, .f0 .pushal), (0x67, .f0 .pushah), (0x68, .f0 .pushbl), (0x69, .f0 .pushbh),
   (0x6A, .f0 .pushxl), (0x6B, .f0 .pushxh), (0x6C, .f0 .pushyl), (0x6D, .f0 .pushyh)]

/-- The legal opcodes with high nibble 0x7 (30_encoding.md rule R127). -/
def mapRow7 : List (Byte × Form) :=
  [(0x76, .f0 .popal), (0x77, .f0 .popah), (0x78, .f0 .popbl), (0x79, .f0 .popbh),
   (0x7A, .f0 .popxl), (0x7B, .f0 .popxh), (0x7C, .f0 .popyl), (0x7D, .f0 .popyh)]

/-- The legal opcodes with high nibble 0x8 (30_encoding.md rule R127). -/
def mapRow8 : List (Byte × Form) :=
  [(0x81, .f0 .add), (0x82, .f0 .sub), (0x83, .f0 .mul), (0x84, .f0 .div),
   (0x88, .f0 .incx), (0x89, .f0 .decx), (0x8A, .f0 .incy), (0x8B, .f0 .decy)]

/-- The legal opcodes with high nibble 0x9 (30_encoding.md rule R127). -/
def mapRow9 : List (Byte × Form) :=
  [(0x90, .f1 .jmpr), (0x91, .f1 .jeqr), (0x92, .f1 .jgtr), (0x93, .f1 .jltr)]

/-- The legal opcodes with high nibble 0xA (30_encoding.md rule R127). -/
def mapRowA : List (Byte × Form) :=
  [(0xA0, .f2 .jmp), (0xA1, .f2 .jeq), (0xA2, .f2 .jgt), (0xA3, .f2 .jlt),
   (0xA8, .f2 .call), (0xA9, .f0 .ret)]

/-- The legal opcodes with high nibble 0xB (30_encoding.md rule R127). -/
def mapRowB : List (Byte × Form) :=
  [(0xB8, .f0 .tab), (0xBA, .f0 .tax), (0xBC, .f0 .tay)]

/-- The legal opcodes with high nibble 0xC (30_encoding.md rule R127). -/
def mapRowC : List (Byte × Form) :=
  [(0xC6, .f0 .tba), (0xCA, .f0 .tbx), (0xCC, .f0 .tby)]

/-- The legal opcodes with high nibble 0xD (30_encoding.md rule R127). -/
def mapRowD : List (Byte × Form) :=
  [(0xD6, .f0 .txa), (0xD8, .f0 .txb), (0xDC, .f0 .txy)]

/-- The legal opcodes with high nibble 0xE (30_encoding.md rule R127). -/
def mapRowE : List (Byte × Form) :=
  [(0xE6, .f0 .tya), (0xE8, .f0 .tyb), (0xEA, .f0 .tyx)]

/-- The complete opcode map (30_encoding.md rules R127 and R128). -/
def opcodeMap : List (Byte × Form) :=
  mapRow0 ++ mapRow1 ++ mapRow2 ++ mapRow3 ++ mapRow4 ++ mapRow5 ++ mapRow6 ++ mapRow7 ++ mapRow8 ++ mapRow9 ++ mapRowA ++ mapRowB ++ mapRowC ++ mapRowD ++ mapRowE

/-- The row of an opcode byte: an exact match of the whole byte (30_encoding.md rule R127). -/
def lookupForm : List (Byte × Form) → Byte → Option Form
  | [], _ => none
  | (k, f) :: rest, op => if k = op then some f else lookupForm rest op

/-- Why the decoder rejects a byte stream. -/
inductive DecodeError where
  /-- There is no byte at all. -/
  | noByte
  /-- The opcode byte has no row (30_encoding.md rule R130). -/
  | illegalOpcode (op : Byte)
  /-- The stream ends before the operand bytes of a legal opcode. -/
  | truncated (op : Byte)
deriving DecidableEq, Repr

/-- Decoding a byte stream: the instruction at its head and the bytes after it. Operand bytes take
no part in selecting the instruction and are never illegal (30_encoding.md rules R127, R132). -/
def decode : List Byte → Except DecodeError (Instr × List Byte)
  | [] => .error .noByte
  | op :: rest =>
    match lookupForm opcodeMap op with
    | none => .error (.illegalOpcode op)
    | some (.f0 i) => .ok (i, rest)
    | some (.f1 mk) =>
      match rest with
      | rel8 :: rest' => .ok (mk rel8, rest')
      | [] => .error (.truncated op)
    | some (.f2 mk) =>
      match rest with
      | l :: h :: rest' => .ok (mk (joinBytes h l), rest')
      | _ => .error (.truncated op)

/-- The bytes of an instruction, lowest address first (30_encoding.md rules R121, R124, R128). -/
def encode : Instr → List Byte
  | .halt => [0x01]
  | .setstk imm16 => [0x12, loByte imm16, hiByte imm16]
  | .seta imm16 => [0x16, loByte imm16, hiByte imm16]
  | .setb imm16 => [0x18, loByte imm16, hiByte imm16]
  | .setx imm16 => [0x1A, loByte imm16, hiByte imm16]
  | .sety imm16 => [0x1C, loByte imm16, hiByte imm16]
  | .ldal abs16 => [0x26, loByte abs16, hiByte abs16]
  | .ldah abs16 => [0x27, loByte abs16, hiByte abs16]
  | .ldbl abs16 => [0x28, loByte abs16, hiByte abs16]
  | .ldbh abs16 => [0x29, loByte abs16, hiByte abs16]
  | .ldxl abs16 => [0x2A, loByte abs16, hiByte abs16]
  | .ldxh abs16 => [0x2B, loByte abs16, hiByte abs16]
  | .ldyl abs16 => [0x2C, loByte abs16, hiByte abs16]
  | .ldyh abs16 => [0x2D, loByte abs16, hiByte abs16]
  | .stal abs16 => [0x36, loByte abs16, hiByte abs16]
  | .stah abs16 => [0x37, loByte abs16, hiByte abs16]
  | .stbl abs16 => [0x38, loByte abs16, hiByte abs16]
  | .stbh abs16 => [0x39, loByte abs16, hiByte abs16]
  | .stxl abs16 => [0x3A, loByte abs16, hiByte abs16]
  | .stxh abs16 => [0x3B, loByte abs16, hiByte abs16]
  | .styl abs16 => [0x3C, loByte abs16, hiByte abs16]
  | .styh abs16 => [0x3D, loByte abs16, hiByte abs16]
  | .lxal => [0x46]
  | .lxah => [0x47]
  | .lxbl => [0x48]
  | .lxbh => [0x49]
  | .lxxl => [0x4A]
  | .lxxh => [0x4B]
  | .lxyl => [0x4C]
  | .lxyh => [0x4D]
  | .lyal => [0x56]
  | .lyah => [0x57]
  | .lybl => [0x58]
  | .lybh => [0x59]
  | .lyxl => [0x5A]
  | .lyxh => [0x5B]
  | .lyyl => [0x5C]
  | .lyyh => [0x5D]
  | .pushal => [0x66]
  | .pushah => [0x67]
  | .pushbl => [0x68]
  | .pushbh => [0x69]
  | .pushxl => [0x6A]
  | .pushxh => [0x6B]
  | .pushyl => [0x6C]
  | .pushyh => [0x6D]
  | .popal => [0x76]
  | .popah => [0x77]
  | .popbl => [0x78]
  | .popbh => [0x79]
  | .popxl => [0x7A]
  | .popxh => [0x7B]
  | .popyl => [0x7C]
  | .popyh => [0x7D]
  | .add => [0x81]
  | .sub => [0x82]
  | .mul => [0x83]
  | .div => [0x84]
  | .incx => [0x88]
  | .decx => [0x89]
  | .incy => [0x8A]
  | .decy => [0x8B]
  | .jmpr rel8 => [0x90, rel8]
  | .jeqr rel8 => [0x91, rel8]
  | .jgtr rel8 => [0x92, rel8]
  | .jltr rel8 => [0x93, rel8]
  | .jmp abs16 => [0xA0, loByte abs16, hiByte abs16]
  | .jeq abs16 => [0xA1, loByte abs16, hiByte abs16]
  | .jgt abs16 => [0xA2, loByte abs16, hiByte abs16]
  | .jlt abs16 => [0xA3, loByte abs16, hiByte abs16]
  | .call abs16 => [0xA8, loByte abs16, hiByte abs16]
  | .ret => [0xA9]
  | .tab => [0xB8]
  | .tax => [0xBA]
  | .tay => [0xBC]
  | .tba => [0xC6]
  | .tbx => [0xCA]
  | .tby => [0xCC]
  | .txa => [0xD6]
  | .txb => [0xD8]
  | .txy => [0xDC]
  | .tya => [0xE6]
  | .tyb => [0xE8]
  | .tyx => [0xEA]

/-- The instruction of a bare opcode byte, its operand bytes taken as zero: what selects the
handler (40_controller.md rule R175). -/
def opcodeInstr (op : Byte) : Option Instr :=
  match lookupForm opcodeMap op with
  | none => none
  | some (.f0 i) => some i
  | some (.f1 mk) => some (mk 0)
  | some (.f2 mk) => some (mk 0)

/-- The three bytes that a table word of `nbits` bits lays out in memory, first byte at the lowest
address, every bit from `nbits` on being 0. -/
def tableBytes (nbits w : Nat) : List Byte :=
  let v := w % 2 ^ nbits
  [BitVec.ofNat 8 v, BitVec.ofNat 8 (v / 256), BitVec.ofNat 8 (v / 65536)]

/-- The instruction the decoder reads from a table word, none where it refuses. -/
def decodeTableWord (nbits w : Nat) : Option Instr :=
  match decode (tableBytes nbits w) with
  | .ok (i, _) => some i
  | .error _ => none

end Sys2Proof
end

