-- ==== Sys2Proof/Machine/State.lean ====
section
/-! DEFINITION. The machine's state as plain data: the register file and the control state of
10_state.md, the bus latches and the device stores of 20_memory.md, the fault log of
60_exceptions.md rule R404; the reasons a step can stop; the state after reset. -/

namespace Sys2Proof.Machine

/-- A backing store: cells (offset, byte), offsets strictly rising, no cell equal to what an
unlisted offset reads as (20_memory.md rule R77; log 3). -/
abbrev Memory := List Host.Cell

/-- The three latches of the bus (20_memory.md rule R70). -/
structure Bus where
  address : Word
  data : Byte
  readIntent : Bool
deriving DecidableEq, Repr

/-- A device: its construction parameters and its backing store (20_memory.md rule R77). -/
structure Device where
  cfg : DeviceConfig
  store : Memory
deriving DecidableEq, Repr

/-- The two causes of a fault (60_exceptions.md rule R400). -/
inductive Cause where
  /-- Cause code 1 (60_exceptions.md rule R401). -/
  | illegalOpcode
  /-- Cause code 2 (60_exceptions.md rule R402). -/
  | divideByZero
deriving DecidableEq, Repr

/-- One record of the fault log (60_exceptions.md rule R404). -/
structure FaultRecord where
  cause : Cause
  opcode : Byte
  pc : Word
deriving DecidableEq, Repr

/-- The state of the system. The seven registers are those of 10_state.md rule R30, the control
state that of rule R42, the bus that of 20_memory.md rule R70. `devices` is `Platform.devices` with
the stores, in the order in which the driver ticks them (20_memory.md rules R77, R80; log 2). `log`
is the fault log (60_exceptions.md rule R404). -/
structure State where
  pc : Word
  stk : Word
  adr : Word
  a : Word
  b : Word
  x : Word
  y : Word
  opcode : Byte
  state : Byte
  fetch : Bool
  halt : Bool
  bus : Bus
  devices : List Device
  log : List FaultRecord
deriving DecidableEq, Repr

/-- Why a step stops the model. The machine's own two faults are next states, not these. -/
inductive Fault where
  /-- Raised by the tick when the exec cycle counter names a row that the handler of the opcode in
  flight does not have. 40_controller.md rule R175 says that no handler is ever asked for such a
  cycle; only a state that no run reaches raises it. Safe: the model stops (log 6). -/
  | noSuchCycle (opcode cycle : Byte)
deriving DecidableEq, Repr

/-- Why the model refuses a step. -/
inductive Refusal where
  /-- Raised by `exec` for an instruction that has no meaning yet. Safe. No arm raises it. -/
  | notModelled (mnemonic : String)
  /-- Raised by `step` on a platform whose windows overlap or pass the top of the address space,
  which a model should refuse (20_memory.md rules R79, R86). Safe (log 5). -/
  | illFormedPlatform
deriving DecidableEq, Repr

/-- The reset state on the devices `ds`, whose stores hold `InitialImage` (70_reset_and_hazards.md
rule R440, 10_state.md rule R48, 20_memory.md rule R76). -/
def State.resetOn (ds : List Device) : State where
  pc := 0x0000
  stk := 0x0000
  adr := 0x0000
  a := 0x0000
  b := 0x0000
  x := 0x0000
  y := 0x0000
  opcode := 0x00
  state := 0
  fetch := true
  halt := false
  bus := ⟨0x0000, 0x00, false⟩
  devices := ds
  log := []

/-- The machine right after reset, on the reference platform with stores that list nothing.
DESIGN CHOICE, unsafe: the platform and the image are open parameters (logs 2 and 3). -/
def State.reset : State := State.resetOn (Config.p0.map (fun c => ⟨c, []⟩))

end Sys2Proof.Machine
end

