-- ==== Sys2Proof/Machine/Ops.lean ====
section
/-! DEFINITION. The named operations over stores, devices, the bus, registers and control state:
20_memory.md (stores, device tick, bus operations), 10_state.md rules R30 to R32 (registers),
40_controller.md (fetch tick, latch, advance, cycle count), 60_exceptions.md rule R403 (raising a
fault). An instruction's meaning is a list of rows, one per exec cycle, run between device ticks. -/

namespace Sys2Proof.Machine

/-! ## Backing stores -/

/-- The byte at an offset of a store (20_memory.md rule R77); `Config.unlistedByte` where the store
lists nothing. -/
def Memory.read : Memory → Nat → Byte
  | [], _ => Config.unlistedByte
  | (k, v) :: m, i => if k = i then v else Memory.read m i

/-- A store without its cell at an offset. -/
def Memory.erase : Memory → Nat → Memory
  | [], _ => []
  | (k, v) :: m, i => if k = i then Memory.erase m i else (k, v) :: Memory.erase m i

/-- A store with one more cell, before the first cell of a larger offset. -/
def Memory.insert : Memory → Nat → Byte → Memory
  | [], i, v => [(i, v)]
  | (k, w) :: m, i, v => if i < k then (i, v) :: (k, w) :: m else (k, w) :: Memory.insert m i v

/-- Replacing the byte at an offset, in the canonical form: writing what an unlisted offset reads as
removes the cell. -/
def Memory.write (m : Memory) (i : Nat) (v : Byte) : Memory :=
  if v = Config.unlistedByte then Memory.erase m i else Memory.insert (Memory.erase m i) i v

/-- Every offset of the store is at least `lo`, the offsets rise strictly, and no cell is equal to
what an unlisted offset reads as. -/
def Memory.wfFrom : Nat → Memory → Bool
  | _, [] => true
  | lo, (k, v) :: m => decide (lo ≤ k) && decide (v ≠ Config.unlistedByte) && Memory.wfFrom (k + 1) m

/-- The canonical form of a store. -/
def Memory.wf (m : Memory) : Bool := Memory.wfFrom 0 m

/-! ## Devices -/

/-- The offset of an address in a device's window, modulo 65536 (20_memory.md rules R78, R79). -/
def Device.offset (d : Device) (A : Word) : Word := A - d.cfg.mountBase

/-- A device claims the addresses whose offset is below its window size (20_memory.md rule R78). -/
def Device.claims (d : Device) (A : Word) : Bool := decide (d.offset A < d.cfg.windowSize)

/-- The byte a device holds at an address it claims (20_memory.md rule R78). -/
def Device.load (d : Device) (A : Word) : Byte := Memory.read d.store (d.offset A).toNat

/-- Replacing the byte a device holds at an address, whatever its `writable` flag says. -/
def Device.poke (d : Device) (A : Word) (v : Byte) : Device :=
  { d with store := Memory.write d.store (d.offset A).toNat v }

/-- The write branch of the device tick: a claiming writable device stores the byte, a read-only one
does nothing (20_memory.md rules R78, R101). -/
def Device.accept (d : Device) (A : Word) (v : Byte) : Device :=
  if d.claims A && d.cfg.writable then d.poke A v else d

/-- The device tick (20_memory.md rules R78, R101): outside its window it does nothing; inside, a
read puts the stored byte on `bus.data`, a write stores `bus.data`. -/
def Device.tick (d : Device) (bus : Bus) : Device × Bus :=
  if d.claims bus.address then
    if bus.readIntent then (d, { bus with data := d.load bus.address })
    else (d.accept bus.address bus.data, bus)
  else (d, bus)

/-- One tick of every device in list order, each seeing the bus the one before it left
(20_memory.md rule R80). -/
def tickDevices : List Device → Bus → List Device × Bus
  | [], bus => ([], bus)
  | d :: ds, bus =>
    let (d', bus') := d.tick bus
    let (ds', bus'') := tickDevices ds bus'
    (d' :: ds', bus'')

/-- The device part of an edge (20_memory.md rule R80). -/
def State.tickDevices (s : State) : State :=
  { s with devices := (Machine.tickDevices s.devices s.bus).1
           bus := (Machine.tickDevices s.devices s.bus).2 }

/-- The device that answers for an address: the last claiming one in list order, which on a
well-formed platform is the only one (20_memory.md rules R86, R90). -/
def claimer : List Device → Word → Option Device
  | [], _ => none
  | d :: ds, A =>
    match claimer ds A with
    | some e => some e
    | none => if d.claims A then some d else none

/-- `MemRead(A, 1)`: the byte that the device claiming `A` holds there, none where no device claims
`A` (20_memory.md rule R90). -/
def State.memRead (s : State) (A : Word) : Option Byte :=
  (claimer s.devices A).map (fun d => d.load A)

/-- A write to `A` is kept: a device claims it and that device is writable (20_memory.md rules R85,
R101). -/
def State.writableAt (s : State) (A : Word) : Bool :=
  ((claimer s.devices A).map (fun d => d.cfg.writable)).getD false

/-- The byte on `bus.data` after the devices have seen a read of `A`, when `stale` was there before:
an unclaimed address leaves the latch as it was (20_memory.md rule R85; log 7). -/
def State.answer (s : State) (A : Word) (stale : Byte) : Byte := (s.memRead A).getD stale

/-- Every store after the devices have seen a write of `v` to `A` (20_memory.md rules R78, R101). -/
def State.storeByte (s : State) (A : Word) (v : Byte) : State :=
  { s with devices := s.devices.map (fun d => d.accept A v) }

/-- Placing a byte in the stores from outside, as a loader does (70_reset_and_hazards.md rule R444),
the read-only ones too; where no device claims the address nothing holds it. -/
def State.pokeByte (s : State) (A : Word) (v : Byte) : State :=
  { s with devices := s.devices.map (fun d => if d.claims A then d.poke A v else d) }

/-- Placing bytes at consecutive addresses from outside. -/
def State.pokeBytes : List Byte → Word → State → State
  | [], _, s => s
  | v :: vs, A, s => State.pokeBytes vs (A + 1) (s.pokeByte A v)

/-! ## Registers -/

/-- `reg[r]` (00_scope.md rule R11). -/
def State.get (s : State) : Reg → Word
  | .pc => s.pc
  | .stk => s.stk
  | .adr => s.adr
  | .a => s.a
  | .b => s.b
  | .x => s.x
  | .y => s.y

/-- `reg[r] <- v` (00_scope.md rule R11). -/
def State.set (s : State) : Reg → Word → State
  | .pc, v => { s with pc := v }
  | .stk, v => { s with stk := v }
  | .adr, v => { s with adr := v }
  | .a, v => { s with a := v }
  | .b, v => { s with b := v }
  | .x, v => { s with x := v }
  | .y, v => { s with y := v }

/-! ## Bus operations -/

/-- `BusRead(A)`: latches the address and sets `read_intent`; `data` is not changed (20_memory.md
rule R72). -/
def State.busRead (s : State) (A : Word) : State :=
  { s with bus := { s.bus with address := A, readIntent := true } }

/-- `BusWrite(A, v)`: latches address and data and clears `read_intent` (20_memory.md rule R71). -/
def State.busWrite (s : State) (A : Word) (v : Byte) : State := { s with bus := ⟨A, v, false⟩ }

/-! ## Control state -/

/-- `NextByte()`: `pc <- pc +_16 1; BusRead(pc)` (40_controller.md rule R180). -/
def State.nextByte (s : State) : State := State.busRead { s with pc := s.pc + 1 } (s.pc + 1)

/-- `advance()` (40_controller.md rule R176). -/
def State.advance (s : State) : State :=
  { s with pc := s.pc + 1, fetch := true, state := 0, opcode := 0 }

/-- The numbering of the causes in a log record (60_exceptions.md rules R401, R402). -/
def causeCode : Cause → Nat
  | .illegalOpcode => 1
  | .divideByZero => 2

/-- Taking a fault, the machine's only exception; there is no handler, nothing is saved but the log
record, and no instruction returns from it (60_exceptions.md rules R406, R408).
`raise Fault(cause)`: append one record and set `halt`; no advance, no register write, no bus
operation (60_exceptions.md rule R403). `D` is the byte fetched for the instruction. -/
def State.raise (s : State) (cause : Cause) (D : Byte) : State :=
  { s with log := s.log ++ [⟨cause, D, s.pc⟩], halt := true }

/-- Step 2 of the tick, the fetch tick (40_controller.md rule R173). -/
def State.fetchTick (s : State) : State :=
  { State.busRead { s with opcode := 0, state := 0 } s.pc with fetch := false }

/-- Step 3 of the tick, the opcode latch: an unset opcode takes the byte `D` on the bus
(40_controller.md rule R174). -/
def State.latchOpcode (s : State) (D : Byte) : State :=
  if s.opcode = 0 then { s with opcode := D } else s

/-- Step 5 of the tick, the cycle count (40_controller.md rule R177). -/
def State.countCycle (s : State) : State :=
  if s.opcode = 0 then s else { s with state := s.state + 1 }

/-- One row of a tick table: the core action of one exec cycle, given the byte `D` sampled at the
start of the tick (00_scope.md rule R14, 40_controller.md rule R178). -/
abbrev Row := Byte → State → State

/-- Steps 3 to 5 of the tick around one row (40_controller.md rule R171). -/
def State.execTick (s : State) (D : Byte) (row : Row) : State :=
  (row D (s.latchOpcode D)).countCycle

/-- The edge of a fetch tick (40_controller.md rule R173, 20_memory.md rule R80). -/
def State.fetchEdge (s : State) : State := s.fetchTick.tickDevices

/-- The edge of an exec cycle (40_controller.md rule R171, 20_memory.md rule R80). -/
def State.execEdge (s : State) (D : Byte) (row : Row) : State := (s.execTick D row).tickDevices

/-- The exec cycles of an instruction, one edge each. The first cycles sample the instruction's own
bytes, opcode first; the later ones sample what is on the bus (log 12). -/
def State.runRows : List Byte → List Row → State → State
  | _, [], s => s
  | bytes, row :: rows, s =>
    State.runRows bytes.tail rows (s.execEdge (bytes.headD s.bus.data) row)

/-- A whole instruction, from `Fetch`: its fetch edge and then its exec cycles (40_controller.md
rule R183). -/
def State.run (s : State) (bytes : List Byte) (rows : List Row) : State :=
  State.runRows bytes rows s.fetchEdge

/-- Dispatch of an opcode that has no row (40_controller.md rule R175, 60_exceptions.md rule
R401). -/
def illegalRow : Row := fun D s => s.raise .illegalOpcode D

/-- The whole course of an illegal opcode byte: its fetch edge and the edge that halts the core
(60_exceptions.md rules R401, R406). -/
def State.takeIllegalOpcode (s : State) (op : Byte) : State := s.run [op] [illegalRow]

end Sys2Proof.Machine
end

