-- ==== Sys2Proof/Machine/Operands.lean ====
section
/-! DEFINITION. The operand forms: register halves (10_state.md rules R31, R32) and the rows of the
16-bit operand protocol that the F2 families share (40_controller.md rule R181). -/

namespace Sys2Proof.Machine

/-- One half of a 16-bit value (10_state.md rule R31). -/
def partOf : Part → Word → Byte
  | .lo, w => loByte w
  | .hi, w => hiByte w

/-- A 16-bit value with one half replaced and the other kept (10_state.md rule R31). -/
def withPart : Part → Word → Byte → Word
  | .lo, w, v => joinBytes (hiByte w) v
  | .hi, w, v => joinBytes v (loByte w)

/-- `reg[r].lo` or `reg[r].hi` (00_scope.md rule R11). -/
def State.getHalf (s : State) (h : Half) : Byte := partOf h.part (s.get h.reg)

/-- `reg[r].lo <- v` or `reg[r].hi <- v` (00_scope.md rule R11). -/
def State.setHalf (s : State) (h : Half) (v : Byte) : State :=
  s.set h.reg (withPart h.part (s.get h.reg) v)

/-- The row that requests an operand byte and samples nothing: cycle 0 of the F1 and F2 families
(40_controller.md rules R180, R181). -/
def requestRow : Row := fun _ s => s.nextByte

/-- Cycle 1 of the F2 families: latch the low half of the target, request the high operand byte
(40_controller.md rule R181). -/
def latchLowRow (target : Reg) : Row := fun D s => (s.setHalf ⟨target, .lo⟩ D).nextByte

/-- Cycle 2 of the F2 families: latch the high half of the target, then the family's own action
(40_controller.md rules R178, R181). -/
def latchHighRow (target : Reg) (action : State → State) : Row :=
  fun D s => action (s.setHalf ⟨target, .hi⟩ D)

end Sys2Proof.Machine
end

