-- ==== Sys2Proof/Machine/Flags.lean ====
section
/-! DEFINITION. The machine has no flags (10_state.md rule R41); a conditional jump compares the
registers a and b when it executes. This file holds those conditions (45_jumps_and_calls.md rule
R301). -/

namespace Sys2Proof.Machine

/-- The four conditions of a jump (45_jumps_and_calls.md rule R301). -/
inductive Cond where
  | always | equal | greater | less
deriving DecidableEq, Repr

/-- A condition on the present values of a and b, compared as unsigned 16-bit numbers
(45_jumps_and_calls.md rule R301). -/
def Cond.holds (s : State) : Cond → Bool
  | .always => true
  | .equal => decide (s.a = s.b)
  | .greater => decide (s.b < s.a)
  | .less => decide (s.a < s.b)

end Sys2Proof.Machine
end

