-- ==== Sys2Proof/Machine/Alu.lean ====
section
/-! DEFINITION. Arithmetic on a and b, increment and decrement of x and y (44_alu_and_pointer.md).
A meaning runs the instruction from `Fetch`: its fetch edge and the edges of its tick table. -/

namespace Sys2Proof.Machine

/-- The tick table of `ADD`, `SUB` and `MUL` (44_alu_and_pointer.md rule R280); arithmetic on `Word`
is modulo 65536 (rule R290). -/
def aluRows (op : Word → Word → Word) : List Row :=
  [fun _ s => (s.set .a (op s.a s.b)).advance]

/-- The tick table of `DIV`: the floor of the unsigned quotient, or the fault
(44_alu_and_pointer.md rules R280, R284; 60_exceptions.md rule R402). -/
def divRows : List Row :=
  [fun D s => if s.b = 0 then s.raise .divideByZero D else (s.set .a (s.a / s.b)).advance]

/-- The tick table of `INCX`, `DECX`, `INCY` and `DECY` (44_alu_and_pointer.md rule R285). -/
def pointerRows (p : Reg) (move : Word → Word) : List Row :=
  [fun _ s => (s.set p (move (s.get p))).advance]

/-- `ADD`: a + b into a (44_alu_and_pointer.md rule R281). -/
def execAdd (s : State) : Host.Outcome State Fault Refusal :=
  .next (s.run (encode .add) (aluRows (· + ·)))

/-- `SUB`: a - b into a (44_alu_and_pointer.md rule R282). -/
def execSub (s : State) : Host.Outcome State Fault Refusal :=
  .next (s.run (encode .sub) (aluRows (· - ·)))

/-- `MUL`: the low half of a * b into a (44_alu_and_pointer.md rule R283). -/
def execMul (s : State) : Host.Outcome State Fault Refusal :=
  .next (s.run (encode .mul) (aluRows (· * ·)))

/-- `DIV`: the unsigned quotient a / b into a, or the DivideByZero fault (44_alu_and_pointer.md
rule R284). -/
def execDiv (s : State) : Host.Outcome State Fault Refusal :=
  .next (s.run (encode .div) divRows)

/-- `INCX`: increment x (44_alu_and_pointer.md rule R286). -/
def execIncx (s : State) : Host.Outcome State Fault Refusal :=
  .next (s.run (encode .incx) (pointerRows .x (· + 1)))

/-- `DECX`: decrement x (44_alu_and_pointer.md rule R287). -/
def execDecx (s : State) : Host.Outcome State Fault Refusal :=
  .next (s.run (encode .decx) (pointerRows .x (· - 1)))

/-- `INCY`: increment y (44_alu_and_pointer.md rule R288). -/
def execIncy (s : State) : Host.Outcome State Fault Refusal :=
  .next (s.run (encode .incy) (pointerRows .y (· + 1)))

/-- `DECY`: decrement y (44_alu_and_pointer.md rule R289). -/
def execDecy (s : State) : Host.Outcome State Fault Refusal :=
  .next (s.run (encode .decy) (pointerRows .y (· - 1)))

end Sys2Proof.Machine
end

