-- ==== Sys2Proof/Machine/Halt.lean ====
section
/-! DEFINITION. HALT (48_halt.md). A meaning runs the instruction from `Fetch`: its fetch edge and
the edges of its tick table. -/

namespace Sys2Proof.Machine

/-- The tick table of `HALT`: no advance, no log record (48_halt.md rules R390, R391). -/
def haltRows : List Row := [fun _ s => { s with halt := true }]

/-- `HALT`: stop the core for good (48_halt.md rule R391). -/
def execHalt (s : State) : Host.Outcome State Fault Refusal :=
  .next (s.run (encode .halt) haltRows)

end Sys2Proof.Machine
end

