-- ==== Sys2Proof/Machine/LoadStore.lean ====
section
/-! DEFINITION. Absolute load and store of a register half (42_absolute_load_store.md). A meaning
runs the instruction from `Fetch`: its fetch edge and the edges of its tick table. -/

namespace Sys2Proof.Machine

/-- The row that latches a data byte into a half and completes the instruction: the last cycle of
`LD`, `LX`, `LY` and `POP` (42_absolute_load_store.md rule R220, 43_indirect_load.md rule R250,
46_stack.md rule R340). -/
def receiveRow (h : Half) : Row := fun D s => (s.setHalf h D).advance

/-- The tick table of `LD h, abs16` (42_absolute_load_store.md rule R220). -/
def loadRows (h : Half) : List Row :=
  [requestRow, latchLowRow .adr, latchHighRow .adr (fun s => s.busRead s.adr), receiveRow h]

/-- The tick table of `ST h, abs16` (42_absolute_load_store.md rule R230). -/
def storeRows (h : Half) : List Row :=
  [requestRow, latchLowRow .adr,
   latchHighRow .adr (fun s => (s.busWrite s.adr (s.getHalf h)).advance)]

/-- `LDAL abs16`: load the low half of a from the byte at `abs16` (42_absolute_load_store.md rule
R222). -/
def execLdal (abs16 : Word) (s : State) : Host.Outcome State Fault Refusal :=
  .next (s.run (encode (.ldal abs16)) (loadRows ⟨.a, .lo⟩))

/-- `LDAH abs16`: load the high half of a from the byte at `abs16` (42_absolute_load_store.md rule
R223). -/
def execLdah (abs16 : Word) (s : State) : Host.Outcome State Fault Refusal :=
  .next (s.run (encode (.ldah abs16)) (loadRows ⟨.a, .hi⟩))

/-- `LDBL abs16`: load the low half of b from the byte at `abs16` (42_absolute_load_store.md rule
R224). -/
def execLdbl (abs16 : Word) (s : State) : Host.Outcome State Fault Refusal :=
  .next (s.run (encode (.ldbl abs16)) (loadRows ⟨.b, .lo⟩))

/-- `LDBH abs16`: load the high half of b from the byte at `abs16` (42_absolute_load_store.md rule
R225). -/
def execLdbh (abs16 : Word) (s : State) : Host.Outcome State Fault Refusal :=
  .next (s.run (encode (.ldbh abs16)) (loadRows ⟨.b, .hi⟩))

/-- `LDXL abs16`: load the low half of x from the byte at `abs16` (42_absolute_load_store.md rule
R226). -/
def execLdxl (abs16 : Word) (s : State) : Host.Outcome State Fault Refusal :=
  .next (s.run (encode (.ldxl abs16)) (loadRows ⟨.x, .lo⟩))

/-- `LDXH abs16`: load the high half of x from the byte at `abs16` (42_absolute_load_store.md rule
R227). -/
def execLdxh (abs16 : Word) (s : State) : Host.Outcome State Fault Refusal :=
  .next (s.run (encode (.ldxh abs16)) (loadRows ⟨.x, .hi⟩))

/-- `LDYL abs16`: load the low half of y from the byte at `abs16` (42_absolute_load_store.md rule
R228). -/
def execLdyl (abs16 : Word) (s : State) : Host.Outcome State Fault Refusal :=
  .next (s.run (encode (.ldyl abs16)) (loadRows ⟨.y, .lo⟩))

/-- `LDYH abs16`: load the high half of y from the byte at `abs16` (42_absolute_load_store.md rule
R229). -/
def execLdyh (abs16 : Word) (s : State) : Host.Outcome State Fault Refusal :=
  .next (s.run (encode (.ldyh abs16)) (loadRows ⟨.y, .hi⟩))

/-- `STAL abs16`: store the low half of a to the byte at `abs16` (42_absolute_load_store.md rule
R232). -/
def execStal (abs16 : Word) (s : State) : Host.Outcome State Fault Refusal :=
  .next (s.run (encode (.stal abs16)) (storeRows ⟨.a, .lo⟩))

/-- `STAH abs16`: store the high half of a to the byte at `abs16` (42_absolute_load_store.md rule
R233). -/
def execStah (abs16 : Word) (s : State) : Host.Outcome State Fault Refusal :=
  .next (s.run (encode (.stah abs16)) (storeRows ⟨.a, .hi⟩))

/-- `STBL abs16`: store the low half of b to the byte at `abs16` (42_absolute_load_store.md rule
R234). -/
def execStbl (abs16 : Word) (s : State) : Host.Outcome State Fault Refusal :=
  .next (s.run (encode (.stbl abs16)) (storeRows ⟨.b, .lo⟩))

/-- `STBH abs16`: store the high half of b to the byte at `abs16` (42_absolute_load_store.md rule
R235). -/
def execStbh (abs16 : Word) (s : State) : Host.Outcome State Fault Refusal :=
  .next (s.run (encode (.stbh abs16)) (storeRows ⟨.b, .hi⟩))

/-- `STXL abs16`: store the low half of x to the byte at `abs16` (42_absolute_load_store.md rule
R236). -/
def execStxl (abs16 : Word) (s : State) : Host.Outcome State Fault Refusal :=
  .next (s.run (encode (.stxl abs16)) (storeRows ⟨.x, .lo⟩))

/-- `STXH abs16`: store the high half of x to the byte at `abs16` (42_absolute_load_store.md rule
R237). -/
def execStxh (abs16 : Word) (s : State) : Host.Outcome State Fault Refusal :=
  .next (s.run (encode (.stxh abs16)) (storeRows ⟨.x, .hi⟩))

/-- `STYL abs16`: store the low half of y to the byte at `abs16` (42_absolute_load_store.md rule
R238). -/
def execStyl (abs16 : Word) (s : State) : Host.Outcome State Fault Refusal :=
  .next (s.run (encode (.styl abs16)) (storeRows ⟨.y, .lo⟩))

/-- `STYH abs16`: store the high half of y to the byte at `abs16` (42_absolute_load_store.md rule
R239). -/
def execStyh (abs16 : Word) (s : State) : Host.Outcome State Fault Refusal :=
  .next (s.run (encode (.styh abs16)) (storeRows ⟨.y, .hi⟩))

end Sys2Proof.Machine
end

