-- ==== Sys2Proof/Machine/Indirect.lean ====
section
/-! DEFINITION. Indirect load of a register half through x or y (43_indirect_load.md). A meaning
runs the instruction from `Fetch`: its fetch edge and the edges of its tick table. -/

namespace Sys2Proof.Machine

/-- The tick table of `LX h` and `LY h`, with `p` the pointer register (43_indirect_load.md rule
R250). -/
def indirectRows (p : Reg) (h : Half) : List Row :=
  [fun _ s => s.busRead (s.get p), receiveRow h]

/-- `LXAL`: load the low half of a from the byte that x points at (43_indirect_load.md rule R252).
-/
def execLxal (s : State) : Host.Outcome State Fault Refusal :=
  .next (s.run (encode .lxal) (indirectRows .x ⟨.a, .lo⟩))

/-- `LXAH`: load the high half of a from the byte that x points at (43_indirect_load.md rule
R253). -/
def execLxah (s : State) : Host.Outcome State Fault Refusal :=
  .next (s.run (encode .lxah) (indirectRows .x ⟨.a, .hi⟩))

/-- `LXBL`: load the low half of b from the byte that x points at (43_indirect_load.md rule R254).
-/
def execLxbl (s : State) : Host.Outcome State Fault Refusal :=
  .next (s.run (encode .lxbl) (indirectRows .x ⟨.b, .lo⟩))

/-- `LXBH`: load the high half of b from the byte that x points at (43_indirect_load.md rule
R255). -/
def execLxbh (s : State) : Host.Outcome State Fault Refusal :=
  .next (s.run (encode .lxbh) (indirectRows .x ⟨.b, .hi⟩))

/-- `LXXL`: load the low half of x from the byte that x points at (43_indirect_load.md rule R256).
-/
def execLxxl (s : State) : Host.Outcome State Fault Refusal :=
  .next (s.run (encode .lxxl) (indirectRows .x ⟨.x, .lo⟩))

/-- `LXXH`: load the high half of x from the byte that x points at (43_indirect_load.md rule
R257). -/
def execLxxh (s : State) : Host.Outcome State Fault Refusal :=
  .next (s.run (encode .lxxh) (indirectRows .x ⟨.x, .hi⟩))

/-- `LXYL`: load the low half of y from the byte that x points at (43_indirect_load.md rule R258).
-/
def execLxyl (s : State) : Host.Outcome State Fault Refusal :=
  .next (s.run (encode .lxyl) (indirectRows .x ⟨.y, .lo⟩))

/-- `LXYH`: load the high half of y from the byte that x points at (43_indirect_load.md rule
R259). -/
def execLxyh (s : State) : Host.Outcome State Fault Refusal :=
  .next (s.run (encode .lxyh) (indirectRows .x ⟨.y, .hi⟩))

/-- `LYAL`: load the low half of a from the byte that y points at (43_indirect_load.md rule R262).
-/
def execLyal (s : State) : Host.Outcome State Fault Refusal :=
  .next (s.run (encode .lyal) (indirectRows .y ⟨.a, .lo⟩))

/-- `LYAH`: load the high half of a from the byte that y points at (43_indirect_load.md rule
R263). -/
def execLyah (s : State) : Host.Outcome State Fault Refusal :=
  .next (s.run (encode .lyah) (indirectRows .y ⟨.a, .hi⟩))

/-- `LYBL`: load the low half of b from the byte that y points at (43_indirect_load.md rule R264).
-/
def execLybl (s : State) : Host.Outcome State Fault Refusal :=
  .next (s.run (encode .lybl) (indirectRows .y ⟨.b, .lo⟩))

/-- `LYBH`: load the high half of b from the byte that y points at (43_indirect_load.md rule
R265). -/
def execLybh (s : State) : Host.Outcome State Fault Refusal :=
  .next (s.run (encode .lybh) (indirectRows .y ⟨.b, .hi⟩))

/-- `LYXL`: load the low half of x from the byte that y points at (43_indirect_load.md rule R266).
-/
def execLyxl (s : State) : Host.Outcome State Fault Refusal :=
  .next (s.run (encode .lyxl) (indirectRows .y ⟨.x, .lo⟩))

/-- `LYXH`: load the high half of x from the byte that y points at (43_indirect_load.md rule
R267). -/
def execLyxh (s : State) : Host.Outcome State Fault Refusal :=
  .next (s.run (encode .lyxh) (indirectRows .y ⟨.x, .hi⟩))

/-- `LYYL`: load the low half of y from the byte that y points at (43_indirect_load.md rule R268).
-/
def execLyyl (s : State) : Host.Outcome State Fault Refusal :=
  .next (s.run (encode .lyyl) (indirectRows .y ⟨.y, .lo⟩))

/-- `LYYH`: load the high half of y from the byte that y points at (43_indirect_load.md rule
R269). -/
def execLyyh (s : State) : Host.Outcome State Fault Refusal :=
  .next (s.run (encode .lyyh) (indirectRows .y ⟨.y, .hi⟩))

end Sys2Proof.Machine
end

