-- ==== Sys2Proof/Machine/Jump.lean ====
section
/-! DEFINITION. Relative and absolute jumps, CALL and RET (45_jumps_and_calls.md). A meaning runs
the instruction from `Fetch`: its fetch edge and the edges of its tick table. -/

namespace Sys2Proof.Machine

/-- Control transfer to the address in adr: `pc` takes adr less 1, and `advance()` adds the 1 back
(45_jumps_and_calls.md rules R300, R307). -/
def State.jumpToAdr (s : State) : State := State.advance { s with pc := s.adr - 1 }

/-- The tick table of a relative jump: a condition that is false adds 0 (45_jumps_and_calls.md rule
R302). -/
def relJumpRows (c : Cond) : List Row :=
  [requestRow, fun D s => State.advance { s with pc := s.pc + if c.holds s then sext16 D else 0 }]

/-- The tick table of an absolute jump (45_jumps_and_calls.md rule R307). -/
def absJumpRows (c : Cond) : List Row :=
  [requestRow, latchLowRow .adr,
   latchHighRow .adr (fun s => if c.holds s then s.jumpToAdr else s.advance)]

/-- One push of a byte: the write uses stk before its decrement (46_stack.md rule R330). -/
def State.pushByte (s : State) (v : Byte) : State := { s.busWrite s.stk v with stk := s.stk - 1 }

/-- One pop request: stk moves first, then the read (46_stack.md rule R340). -/
def State.popRequest (s : State) : State := State.busRead { s with stk := s.stk + 1 } (s.stk + 1)

/-- The return address of a `CALL` at its cycles 2 and 3, where pc stands on the last operand byte
(45_jumps_and_calls.md rule R310). -/
def State.returnAddress (s : State) : Word := s.pc + 1

/-- The tick table of `CALL abs16` (45_jumps_and_calls.md rule R310). -/
def callRows : List Row :=
  [requestRow, latchLowRow .adr,
   latchHighRow .adr (fun s => s.pushByte (hiByte s.returnAddress)),
   fun _ s => (s.pushByte (loByte s.returnAddress)).jumpToAdr]

/-- The tick table of `RET` (45_jumps_and_calls.md rule R313). -/
def retRows : List Row :=
  [fun _ s => s.popRequest,
   fun D s => (s.setHalf ⟨.adr, .lo⟩ D).popRequest,
   fun D s => (s.setHalf ⟨.adr, .hi⟩ D).jumpToAdr]

/-- `JMPR rel8`: jump by `rel8` when always (45_jumps_and_calls.md rule R303). -/
def execJmpr (rel8 : Byte) (s : State) : Host.Outcome State Fault Refusal :=
  .next (s.run (encode (.jmpr rel8)) (relJumpRows .always))

/-- `JEQR rel8`: jump by `rel8` when a == b (45_jumps_and_calls.md rule R304). -/
def execJeqr (rel8 : Byte) (s : State) : Host.Outcome State Fault Refusal :=
  .next (s.run (encode (.jeqr rel8)) (relJumpRows .equal))

/-- `JGTR rel8`: jump by `rel8` when a > b unsigned (45_jumps_and_calls.md rule R305). -/
def execJgtr (rel8 : Byte) (s : State) : Host.Outcome State Fault Refusal :=
  .next (s.run (encode (.jgtr rel8)) (relJumpRows .greater))

/-- `JLTR rel8`: jump by `rel8` when a < b unsigned (45_jumps_and_calls.md rule R306). -/
def execJltr (rel8 : Byte) (s : State) : Host.Outcome State Fault Refusal :=
  .next (s.run (encode (.jltr rel8)) (relJumpRows .less))

/-- `JMP abs16`: jump to `abs16` when always (45_jumps_and_calls.md rule R308). -/
def execJmp (abs16 : Word) (s : State) : Host.Outcome State Fault Refusal :=
  .next (s.run (encode (.jmp abs16)) (absJumpRows .always))

/-- `JEQ abs16`: jump to `abs16` when a == b (45_jumps_and_calls.md rule R309). -/
def execJeq (abs16 : Word) (s : State) : Host.Outcome State Fault Refusal :=
  .next (s.run (encode (.jeq abs16)) (absJumpRows .equal))

/-- `JGT abs16`: jump to `abs16` when a > b unsigned (45_jumps_and_calls.md rule R311). -/
def execJgt (abs16 : Word) (s : State) : Host.Outcome State Fault Refusal :=
  .next (s.run (encode (.jgt abs16)) (absJumpRows .greater))

/-- `JLT abs16`: jump to `abs16` when a < b unsigned (45_jumps_and_calls.md rule R312). -/
def execJlt (abs16 : Word) (s : State) : Host.Outcome State Fault Refusal :=
  .next (s.run (encode (.jlt abs16)) (absJumpRows .less))

/-- `CALL abs16`: push the address of the next instruction and jump to `abs16`
(45_jumps_and_calls.md rule R310). -/
def execCall (abs16 : Word) (s : State) : Host.Outcome State Fault Refusal :=
  .next (s.run (encode (.call abs16)) callRows)

/-- `RET`: pop an address and jump to it (45_jumps_and_calls.md rule R313). -/
def execRet (s : State) : Host.Outcome State Fault Refusal :=
  .next (s.run (encode .ret) retRows)

end Sys2Proof.Machine
end

