-- ==== Sys2Proof/Machine/SetImmediate.lean ====
section
/-! DEFINITION. Immediate set of a 16-bit register (41_set_immediate.md). A meaning runs the
instruction from `Fetch`: its fetch edge and the edges of its tick table. -/

namespace Sys2Proof.Machine

/-- The tick table of `SET r, imm16` (41_set_immediate.md rule R200). -/
def setRows (r : Reg) : List Row :=
  [requestRow, latchLowRow r, latchHighRow r State.advance]

/-- `SETSTK imm16`: set stk to `imm16` (41_set_immediate.md rule R201). -/
def execSetstk (imm16 : Word) (s : State) : Host.Outcome State Fault Refusal :=
  .next (s.run (encode (.setstk imm16)) (setRows .stk))

/-- `SETA imm16`: set a to `imm16` (41_set_immediate.md rule R202). -/
def execSeta (imm16 : Word) (s : State) : Host.Outcome State Fault Refusal :=
  .next (s.run (encode (.seta imm16)) (setRows .a))

/-- `SETB imm16`: set b to `imm16` (41_set_immediate.md rule R203). -/
def execSetb (imm16 : Word) (s : State) : Host.Outcome State Fault Refusal :=
  .next (s.run (encode (.setb imm16)) (setRows .b))

/-- `SETX imm16`: set x to `imm16` (41_set_immediate.md rule R204). -/
def execSetx (imm16 : Word) (s : State) : Host.Outcome State Fault Refusal :=
  .next (s.run (encode (.setx imm16)) (setRows .x))

/-- `SETY imm16`: set y to `imm16` (41_set_immediate.md rule R205). -/
def execSety (imm16 : Word) (s : State) : Host.Outcome State Fault Refusal :=
  .next (s.run (encode (.sety imm16)) (setRows .y))

end Sys2Proof.Machine
end

