-- ==== Sys2Proof/Machine/Stack.lean ====
section
/-! DEFINITION. Push and pop of a register half (46_stack.md). A meaning runs the instruction from
`Fetch`: its fetch edge and the edges of its tick table. -/

namespace Sys2Proof.Machine

/-- The tick table of `PUSH h` (46_stack.md rule R330). -/
def pushRows (h : Half) : List Row := [fun _ s => (s.pushByte (s.getHalf h)).advance]

/-- The tick table of `POP h` (46_stack.md rule R340). -/
def popRows (h : Half) : List Row := [fun _ s => s.popRequest, receiveRow h]

/-- `PUSHAL`: push the low half of a (46_stack.md rule R332). -/
def execPushal (s : State) : Host.Outcome State Fault Refusal :=
  .next (s.run (encode .pushal) (pushRows ⟨.a, .lo⟩))

/-- `PUSHAH`: push the high half of a (46_stack.md rule R333). -/
def execPushah (s : State) : Host.Outcome State Fault Refusal :=
  .next (s.run (encode .pushah) (pushRows ⟨.a, .hi⟩))

/-- `PUSHBL`: push the low half of b (46_stack.md rule R334). -/
def execPushbl (s : State) : Host.Outcome State Fault Refusal :=
  .next (s.run (encode .pushbl) (pushRows ⟨.b, .lo⟩))

/-- `PUSHBH`: push the high half of b (46_stack.md rule R335). -/
def execPushbh (s : State) : Host.Outcome State Fault Refusal :=
  .next (s.run (encode .pushbh) (pushRows ⟨.b, .hi⟩))

/-- `PUSHXL`: push the low half of x (46_stack.md rule R336). -/
def execPushxl (s : State) : Host.Outcome State Fault Refusal :=
  .next (s.run (encode .pushxl) (pushRows ⟨.x, .lo⟩))

/-- `PUSHXH`: push the high half of x (46_stack.md rule R337). -/
def execPushxh (s : State) : Host.Outcome State Fault Refusal :=
  .next (s.run (encode .pushxh) (pushRows ⟨.x, .hi⟩))

/-- `PUSHYL`: push the low half of y (46_stack.md rule R338). -/
def execPushyl (s : State) : Host.Outcome State Fault Refusal :=
  .next (s.run (encode .pushyl) (pushRows ⟨.y, .lo⟩))

/-- `PUSHYH`: push the high half of y (46_stack.md rule R339). -/
def execPushyh (s : State) : Host.Outcome State Fault Refusal :=
  .next (s.run (encode .pushyh) (pushRows ⟨.y, .hi⟩))

/-- `POPAL`: pop a byte into the low half of a (46_stack.md rule R342). -/
def execPopal (s : State) : Host.Outcome State Fault Refusal :=
  .next (s.run (encode .popal) (popRows ⟨.a, .lo⟩))

/-- `POPAH`: pop a byte into the high half of a (46_stack.md rule R343). -/
def execPopah (s : State) : Host.Outcome State Fault Refusal :=
  .next (s.run (encode .popah) (popRows ⟨.a, .hi⟩))

/-- `POPBL`: pop a byte into the low half of b (46_stack.md rule R344). -/
def execPopbl (s : State) : Host.Outcome State Fault Refusal :=
  .next (s.run (encode .popbl) (popRows ⟨.b, .lo⟩))

/-- `POPBH`: pop a byte into the high half of b (46_stack.md rule R345). -/
def execPopbh (s : State) : Host.Outcome State Fault Refusal :=
  .next (s.run (encode .popbh) (popRows ⟨.b, .hi⟩))

/-- `POPXL`: pop a byte into the low half of x (46_stack.md rule R346). -/
def execPopxl (s : State) : Host.Outcome State Fault Refusal :=
  .next (s.run (encode .popxl) (popRows ⟨.x, .lo⟩))

/-- `POPXH`: pop a byte into the high half of x (46_stack.md rule R347). -/
def execPopxh (s : State) : Host.Outcome State Fault Refusal :=
  .next (s.run (encode .popxh) (popRows ⟨.x, .hi⟩))

/-- `POPYL`: pop a byte into the low half of y (46_stack.md rule R348). -/
def execPopyl (s : State) : Host.Outcome State Fault Refusal :=
  .next (s.run (encode .popyl) (popRows ⟨.y, .lo⟩))

/-- `POPYH`: pop a byte into the high half of y (46_stack.md rule R349). -/
def execPopyh (s : State) : Host.Outcome State Fault Refusal :=
  .next (s.run (encode .popyh) (popRows ⟨.y, .hi⟩))

end Sys2Proof.Machine
end

