-- ==== Sys2Proof/Machine/Transfer.lean ====
section
/-! DEFINITION. Register-to-register transfer (47_transfer.md). A meaning runs the instruction
from `Fetch`: its fetch edge and the edges of its tick table. -/

namespace Sys2Proof.Machine

/-- The tick table of `T s d` (47_transfer.md rule R360). -/
def transferRows (src dst : Reg) : List Row := [fun _ s => (s.set dst (s.get src)).advance]

/-- `TAB`: copy a into b (47_transfer.md rule R362). -/
def execTab (s : State) : Host.Outcome State Fault Refusal :=
  .next (s.run (encode .tab) (transferRows .a .b))

/-- `TAX`: copy a into x (47_transfer.md rule R363). -/
def execTax (s : State) : Host.Outcome State Fault Refusal :=
  .next (s.run (encode .tax) (transferRows .a .x))

/-- `TAY`: copy a into y (47_transfer.md rule R364). -/
def execTay (s : State) : Host.Outcome State Fault Refusal :=
  .next (s.run (encode .tay) (transferRows .a .y))

/-- `TBA`: copy b into a (47_transfer.md rule R365). -/
def execTba (s : State) : Host.Outcome State Fault Refusal :=
  .next (s.run (encode .tba) (transferRows .b .a))

/-- `TBX`: copy b into x (47_transfer.md rule R366). -/
def execTbx (s : State) : Host.Outcome State Fault Refusal :=
  .next (s.run (encode .tbx) (transferRows .b .x))

/-- `TBY`: copy b into y (47_transfer.md rule R367). -/
def execTby (s : State) : Host.Outcome State Fault Refusal :=
  .next (s.run (encode .tby) (transferRows .b .y))

/-- `TXA`: copy x into a (47_transfer.md rule R368). -/
def execTxa (s : State) : Host.Outcome State Fault Refusal :=
  .next (s.run (encode .txa) (transferRows .x .a))

/-- `TXB`: copy x into b (47_transfer.md rule R369). -/
def execTxb (s : State) : Host.Outcome State Fault Refusal :=
  .next (s.run (encode .txb) (transferRows .x .b))

/-- `TXY`: copy x into y (47_transfer.md rule R370). -/
def execTxy (s : State) : Host.Outcome State Fault Refusal :=
  .next (s.run (encode .txy) (transferRows .x .y))

/-- `TYA`: copy y into a (47_transfer.md rule R371). -/
def execTya (s : State) : Host.Outcome State Fault Refusal :=
  .next (s.run (encode .tya) (transferRows .y .a))

/-- `TYB`: copy y into b (47_transfer.md rule R372). -/
def execTyb (s : State) : Host.Outcome State Fault Refusal :=
  .next (s.run (encode .tyb) (transferRows .y .b))

/-- `TYX`: copy y into x (47_transfer.md rule R373). -/
def execTyx (s : State) : Host.Outcome State Fault Refusal :=
  .next (s.run (encode .tyx) (transferRows .y .x))

end Sys2Proof.Machine
end

