-- ==== Sys2Proof/Machine/Controller.lean ====
section
/-! DEFINITION. The tick algorithm of 40_controller.md rule R171 and the edge of 20_memory.md rule
R80: the level that the spec calls normative. The step uses it for a halted core and for an
instruction in flight; a statement says that it agrees with `exec` for a whole instruction. -/

namespace Sys2Proof.Machine

/-- The tick table of an instruction, by the family rule of each (files 41 to 48). -/
def handlerRows : Instr → List Row
  | .halt => haltRows
  | .setstk _ => setRows .stk
  | .seta _ => setRows .a
  | .setb _ => setRows .b
  | .setx _ => setRows .x
  | .sety _ => setRows .y
  | .ldal _ => loadRows ⟨.a, .lo⟩
  | .ldah _ => loadRows ⟨.a, .hi⟩
  | .ldbl _ => loadRows ⟨.b, .lo⟩
  | .ldbh _ => loadRows ⟨.b, .hi⟩
  | .ldxl _ => loadRows ⟨.x, .lo⟩
  | .ldxh _ => loadRows ⟨.x, .hi⟩
  | .ldyl _ => loadRows ⟨.y, .lo⟩
  | .ldyh _ => loadRows ⟨.y, .hi⟩
  | .stal _ => storeRows ⟨.a, .lo⟩
  | .stah _ => storeRows ⟨.a, .hi⟩
  | .stbl _ => storeRows ⟨.b, .lo⟩
  | .stbh _ => storeRows ⟨.b, .hi⟩
  | .stxl _ => storeRows ⟨.x, .lo⟩
  | .stxh _ => storeRows ⟨.x, .hi⟩
  | .styl _ => storeRows ⟨.y, .lo⟩
  | .styh _ => storeRows ⟨.y, .hi⟩
  | .lxal => indirectRows .x ⟨.a, .lo⟩
  | .lxah => indirectRows .x ⟨.a, .hi⟩
  | .lxbl => indirectRows .x ⟨.b, .lo⟩
  | .lxbh => indirectRows .x ⟨.b, .hi⟩
  | .lxxl => indirectRows .x ⟨.x, .lo⟩
  | .lxxh => indirectRows .x ⟨.x, .hi⟩
  | .lxyl => indirectRows .x ⟨.y, .lo⟩
  | .lxyh => indirectRows .x ⟨.y, .hi⟩
  | .lyal => indirectRows .y ⟨.a, .lo⟩
  | .lyah => indirectRows .y ⟨.a, .hi⟩
  | .lybl => indirectRows .y ⟨.b, .lo⟩
  | .lybh => indirectRows .y ⟨.b, .hi⟩
  | .lyxl => indirectRows .y ⟨.x, .lo⟩
  | .lyxh => indirectRows .y ⟨.x, .hi⟩
  | .lyyl => indirectRows .y ⟨.y, .lo⟩
  | .lyyh => indirectRows .y ⟨.y, .hi⟩
  | .pushal => pushRows ⟨.a, .lo⟩
  | .pushah => pushRows ⟨.a, .hi⟩
  | .pushbl => pushRows ⟨.b, .lo⟩
  | .pushbh => pushRows ⟨.b, .hi⟩
  | .pushxl => pushRows ⟨.x, .lo⟩
  | .pushxh => pushRows ⟨.x, .hi⟩
  | .pushyl => pushRows ⟨.y, .lo⟩
  | .pushyh => pushRows ⟨.y, .hi⟩
  | .popal => popRows ⟨.a, .lo⟩
  | .popah => popRows ⟨.a, .hi⟩
  | .popbl => popRows ⟨.b, .lo⟩
  | .popbh => popRows ⟨.b, .hi⟩
  | .popxl => popRows ⟨.x, .lo⟩
  | .popxh => popRows ⟨.x, .hi⟩
  | .popyl => popRows ⟨.y, .lo⟩
  | .popyh => popRows ⟨.y, .hi⟩
  | .add => aluRows (· + ·)
  | .sub => aluRows (· - ·)
  | .mul => aluRows (· * ·)
  | .div => divRows
  | .incx => pointerRows .x (· + 1)
  | .decx => pointerRows .x (· - 1)
  | .incy => pointerRows .y (· + 1)
  | .decy => pointerRows .y (· - 1)
  | .jmpr _ => relJumpRows .always
  | .jeqr _ => relJumpRows .equal
  | .jgtr _ => relJumpRows .greater
  | .jltr _ => relJumpRows .less
  | .jmp _ => absJumpRows .always
  | .jeq _ => absJumpRows .equal
  | .jgt _ => absJumpRows .greater
  | .jlt _ => absJumpRows .less
  | .call _ => callRows
  | .ret => retRows
  | .tab => transferRows .a .b
  | .tax => transferRows .a .x
  | .tay => transferRows .a .y
  | .tba => transferRows .b .a
  | .tbx => transferRows .b .x
  | .tby => transferRows .b .y
  | .txa => transferRows .x .a
  | .txb => transferRows .x .b
  | .txy => transferRows .x .y
  | .tya => transferRows .y .a
  | .tyb => transferRows .y .b
  | .tyx => transferRows .y .x

/-- The exec cycles of an instruction (70_reset_and_hazards.md rule R460). -/
def execCycles : Instr → Nat
  | .halt | .pushal | .pushah | .pushbl | .pushbh | .pushxl | .pushxh
  | .pushyl | .pushyh | .add | .sub | .mul | .div | .incx
  | .decx | .incy | .decy | .tab | .tax | .tay | .tba
  | .tbx | .tby | .txa | .txb | .txy | .tya | .tyb
  | .tyx => 1
  | .lxal | .lxah | .lxbl | .lxbh | .lxxl | .lxxh | .lxyl
  | .lxyh | .lyal | .lyah | .lybl | .lybh | .lyxl | .lyxh
  | .lyyl | .lyyh | .popal | .popah | .popbl | .popbh | .popxl
  | .popxh | .popyl | .popyh | .jmpr _ | .jeqr _ | .jgtr _ | .jltr _ => 2
  | .setstk _ | .seta _ | .setb _ | .setx _ | .sety _ | .stal _ | .stah _
  | .stbl _ | .stbh _ | .stxl _ | .stxh _ | .styl _ | .styh _ | .jmp _
  | .jeq _ | .jgt _ | .jlt _ | .ret => 3
  | .ldal _ | .ldah _ | .ldbl _ | .ldbh _ | .ldxl _ | .ldxh _ | .ldyl _
  | .ldyh _ | .call _ => 4

/-- The ticks of an instruction, its fetch tick counted (40_controller.md rules R173, R182). -/
def ticksOf (i : Instr) : Nat := execCycles i + 1

/-- Step 4 of the tick: the row that `dispatch(opcode, state)` runs. An opcode without a row of the
opcode table raises its fault at whatever cycle; none is the answer where a legal opcode's handler
lacks the cycle (40_controller.md rule R175; log 6). -/
def dispatchRow (opcode cycle : Byte) : Option Row :=
  match opcodeInstr opcode with
  | none => some illegalRow
  | some i => (handlerRows i)[cycle.toNat]?

/-- The tick algorithm (40_controller.md rule R171). -/
def State.tick (s : State) : Host.Outcome State Fault Refusal :=
  if s.halt then .next s
  else if s.fetch then .next s.fetchTick
  else
    let opcode := (s.latchOpcode s.bus.data).opcode
    match dispatchRow opcode s.state with
    | some row => .next (s.execTick s.bus.data row)
    | none => .fault (.noSuchCycle opcode s.state)

/-- One edge: the core's tick, then one tick of every device (20_memory.md rule R80). -/
def State.edge (s : State) : Host.Outcome State Fault Refusal :=
  match s.tick with
  | .next t => .next t.tickDevices
  | .fault r => .fault r
  | .refused r => .refused r

/-- A number of edges, stopping where one stops. -/
def State.edges : Nat → State → Host.Outcome State Fault Refusal
  | 0, s => .next s
  | n + 1, s =>
    match s.edge with
    | .next t => State.edges n t
    | .fault r => .fault r
    | .refused r => .refused r

/-- Edges up to the boundary of the instruction in flight, `fuel` at most: the boundary is where
`fetch` is set or the core has halted (40_controller.md rule R183). -/
def State.finish : Nat → State → Host.Outcome State Fault Refusal
  | 0, s => .next s
  | fuel + 1, s =>
    if s.fetch || s.halt then .next s
    else
      match s.edge with
      | .next t => State.finish fuel t
      | .fault r => .fault r
      | .refused r => .refused r

/-- The most exec cycles an instruction has (70_reset_and_hazards.md rule R460). -/
def maxCycles : Nat := 4

/-- The bytes the core would sample at pc and the two addresses after it, one edge each: an unclaimed
address repeats the byte before it (20_memory.md rule R85, 40_controller.md rule R180). -/
def State.instrBytes (s : State) : List Byte :=
  let b0 := s.answer s.pc s.bus.data
  let b1 := s.answer (s.pc + 1) b0
  let b2 := s.answer (s.pc + 2) b1
  [b0, b1, b2]

/-- The platform is well formed (20_memory.md rules R79, R86). -/
def State.platformOk (s : State) : Bool := platformWf (s.devices.map (fun d => d.cfg))

/-- The core placed at an instruction boundary, in `Fetch` (10_state.md rule R45). -/
def State.atFetch (s : State) : State :=
  { s with fetch := true, halt := false, opcode := 0, state := 0 }

end Sys2Proof.Machine
end

