-- ==== Sys2Proof/Machine/Dispatch.lean ====
section
/-! DEFINITION. The dispatch of the instructions: one arm per constructor of `Instr`, each one direct
call of that instruction's meaning. -/

namespace Sys2Proof.Machine

def exec (i : Instr) (s : State) : Host.Outcome State Fault Refusal :=
  match i with
  | .halt => Sys2Proof.Machine.execHalt s
  | .setstk imm16 => Sys2Proof.Machine.execSetstk imm16 s
  | .seta imm16 => Sys2Proof.Machine.execSeta imm16 s
  | .setb imm16 => Sys2Proof.Machine.execSetb imm16 s
  | .setx imm16 => Sys2Proof.Machine.execSetx imm16 s
  | .sety imm16 => Sys2Proof.Machine.execSety imm16 s
  | .ldal abs16 => Sys2Proof.Machine.execLdal abs16 s
  | .ldah abs16 => Sys2Proof.Machine.execLdah abs16 s
  | .ldbl abs16 => Sys2Proof.Machine.execLdbl abs16 s
  | .ldbh abs16 => Sys2Proof.Machine.execLdbh abs16 s
  | .ldxl abs16 => Sys2Proof.Machine.execLdxl abs16 s
  | .ldxh abs16 => Sys2Proof.Machine.execLdxh abs16 s
  | .ldyl abs16 => Sys2Proof.Machine.execLdyl abs16 s
  | .ldyh abs16 => Sys2Proof.Machine.execLdyh abs16 s
  | .stal abs16 => Sys2Proof.Machine.execStal abs16 s
  | .stah abs16 => Sys2Proof.Machine.execStah abs16 s
  | .stbl abs16 => Sys2Proof.Machine.execStbl abs16 s
  | .stbh abs16 => Sys2Proof.Machine.execStbh abs16 s
  | .stxl abs16 => Sys2Proof.Machine.execStxl abs16 s
  | .stxh abs16 => Sys2Proof.Machine.execStxh abs16 s
  | .styl abs16 => Sys2Proof.Machine.execStyl abs16 s
  | .styh abs16 => Sys2Proof.Machine.execStyh abs16 s
  | .lxal => Sys2Proof.Machine.execLxal s
  | .lxah => Sys2Proof.Machine.execLxah s
  | .lxbl => Sys2Proof.Machine.execLxbl s
  | .lxbh => Sys2Proof.Machine.execLxbh s
  | .lxxl => Sys2Proof.Machine.execLxxl s
  | .lxxh => Sys2Proof.Machine.execLxxh s
  | .lxyl => Sys2Proof.Machine.execLxyl s
  | .lxyh => Sys2Proof.Machine.execLxyh s
  | .lyal => Sys2Proof.Machine.execLyal s
  | .lyah => Sys2Proof.Machine.execLyah s
  | .lybl => Sys2Proof.Machine.execLybl s
  | .lybh => Sys2Proof.Machine.execLybh s
  | .lyxl => Sys2Proof.Machine.execLyxl s
  | .lyxh => Sys2Proof.Machine.execLyxh s
  | .lyyl => Sys2Proof.Machine.execLyyl s
  | .lyyh => Sys2Proof.Machine.execLyyh s
  | .pushal => Sys2Proof.Machine.execPushal s
  | .pushah => Sys2Proof.Machine.execPushah s
  | .pushbl => Sys2Proof.Machine.execPushbl s
  | .pushbh => Sys2Proof.Machine.execPushbh s
  | .pushxl => Sys2Proof.Machine.execPushxl s
  | .pushxh => Sys2Proof.Machine.execPushxh s
  | .pushyl => Sys2Proof.Machine.execPushyl s
  | .pushyh => Sys2Proof.Machine.execPushyh s
  | .popal => Sys2Proof.Machine.execPopal s
  | .popah => Sys2Proof.Machine.execPopah s
  | .popbl => Sys2Proof.Machine.execPopbl s
  | .popbh => Sys2Proof.Machine.execPopbh s
  | .popxl => Sys2Proof.Machine.execPopxl s
  | .popxh => Sys2Proof.Machine.execPopxh s
  | .popyl => Sys2Proof.Machine.execPopyl s
  | .popyh => Sys2Proof.Machine.execPopyh s
  | .add => Sys2Proof.Machine.execAdd s
  | .sub => Sys2Proof.Machine.execSub s
  | .mul => Sys2Proof.Machine.execMul s
  | .div => Sys2Proof.Machine.execDiv s
  | .incx => Sys2Proof.Machine.execIncx s
  | .decx => Sys2Proof.Machine.execDecx s
  | .incy => Sys2Proof.Machine.execIncy s
  | .decy => Sys2Proof.Machine.execDecy s
  | .jmpr rel8 => Sys2Proof.Machine.execJmpr rel8 s
  | .jeqr rel8 => Sys2Proof.Machine.execJeqr rel8 s
  | .jgtr rel8 => Sys2Proof.Machine.execJgtr rel8 s
  | .jltr rel8 => Sys2Proof.Machine.execJltr rel8 s
  | .jmp abs16 => Sys2Proof.Machine.execJmp abs16 s
  | .jeq abs16 => Sys2Proof.Machine.execJeq abs16 s
  | .jgt abs16 => Sys2Proof.Machine.execJgt abs16 s
  | .jlt abs16 => Sys2Proof.Machine.execJlt abs16 s
  | .call abs16 => Sys2Proof.Machine.execCall abs16 s
  | .ret => Sys2Proof.Machine.execRet s
  | .tab => Sys2Proof.Machine.execTab s
  | .tax => Sys2Proof.Machine.execTax s
  | .tay => Sys2Proof.Machine.execTay s
  | .tba => Sys2Proof.Machine.execTba s
  | .tbx => Sys2Proof.Machine.execTbx s
  | .tby => Sys2Proof.Machine.execTby s
  | .txa => Sys2Proof.Machine.execTxa s
  | .txb => Sys2Proof.Machine.execTxb s
  | .txy => Sys2Proof.Machine.execTxy s
  | .tya => Sys2Proof.Machine.execTya s
  | .tyb => Sys2Proof.Machine.execTyb s
  | .tyx => Sys2Proof.Machine.execTyx s

end Sys2Proof.Machine
end

