-- ==== Sys2Proof/Machine/Step.lean ====
section
/-! DEFINITION. The step: one whole instruction from one boundary to the next (40_controller.md rule
R183; log 1), and the placing of an instruction where the step fetches it. -/

namespace Sys2Proof.Machine

/-- An instruction's course from `Fetch`: the meaning of the instruction at pc, or the halt of an
illegal opcode (40_controller.md rule R175). -/
def State.stepFetched (s : State) : Host.Outcome State Fault Refusal :=
  match decode s.instrBytes with
  | .ok (i, _) => exec i s
  | .error _ => .next (s.takeIllegalOpcode (s.answer s.pc s.bus.data))

/-- One step. An ill-formed platform is refused (20_memory.md rules R79, R86); a halted core has one
edge, in which only the devices act (40_controller.md rule R172, 60_exceptions.md rule R411); an
instruction in flight is carried to its boundary (log 10). -/
def step (s : State) : Host.Outcome State Fault Refusal :=
  if s.platformOk then
    if s.halt then s.edge
    else if s.fetch then s.stepFetched
    else s.finish maxCycles
  else .refused .illFormedPlatform

/-- The state with an instruction's bytes stored from pc on and the core in `Fetch` (log 4). -/
def State.withFetchWord (s : State) (nbits w : Nat) : State :=
  (State.pokeBytes (tableBytes nbits w) s.pc s).atFetch

end Sys2Proof.Machine
end

