-- ==== Sys2Proof/Safety.lean ====
section
/-! DEFINITION. The terms that claims about runs use: the invariant of the states a run reaches, and
how a driver tells the ways of stopping apart. -/

namespace Sys2Proof.Machine

/-- A device's store is in its canonical form and lists only offsets inside the window
(20_memory.md rule R77). -/
def Device.storeOk (d : Device) : Bool :=
  Memory.wf d.store && d.store.all (fun c => decide (c.1 < d.cfg.windowSize.toNat))

/-- Every store is in its canonical form and inside its window. -/
def State.StoresOk (s : State) : Prop := ∀ d ∈ s.devices, d.storeOk = true

/-- A bus operation of the core (20_memory.md rules R71, R72). -/
inductive BusOp where
  | read (A : Word)
  | write (A : Word) (v : Byte)
deriving DecidableEq, Repr

/-- The latches are as the operation left them; a read leaves the data latch to the devices
(20_memory.md rules R71, R72). -/
def State.Latched (s : State) : BusOp → Prop
  | .read A => s.bus.address = A ∧ s.bus.readIntent = true
  | .write A v => s.bus = ⟨A, v, false⟩

/-- The bus holds the operation, and the devices have had their tick for it: a read is answered, a
write is stored where a writable device claims the address (20_memory.md rules R81 to R83). -/
def State.HoldsBusOp (s : State) : BusOp → Prop
  | .read A => s.Latched (.read A) ∧ s.answer A s.bus.data = s.bus.data
  | .write A v => s.Latched (.write A v) ∧ (s.writableAt A = true → s.memRead A = some v)

/-- The bus holds the answered read of pc: what every edge of a fetch tick leaves (40_controller.md
rule R173, 20_memory.md rule R83). -/
def State.HoldsFetch (s : State) : Prop := s.HoldsBusOp (.read s.pc)

/-- The bus operation issued last when the exec cycle `n` of an instruction is about to run, read off
the registers as that operation left them: the fetch tick's for cycle 0, and for a later cycle that of
the cycle before it (tick tables of files 41 to 48). -/
def State.lastBusOp (s : State) : Instr → Nat → BusOp
  | .halt, _ | .add, _ | .sub, _ | .mul, _ | .div, _ | .incx, _ | .decx, _ | .incy, _ | .decy, _
  | .tab, _ | .tax, _ | .tay, _ | .tba, _ | .tbx, _ | .tby, _ | .txa, _ | .txb, _ | .txy, _
  | .tya, _ | .tyb, _ | .tyx, _
  | .pushal, _ | .pushah, _ | .pushbl, _ | .pushbh, _ | .pushxl, _ | .pushxh, _ | .pushyl, _
  | .pushyh, _
  | .jmpr _, _ | .jeqr _, _ | .jgtr _, _ | .jltr _, _
  | .setstk _, _ | .seta _, _ | .setb _, _ | .setx _, _ | .sety _, _
  | .stal _, _ | .stah _, _ | .stbl _, _ | .stbh _, _ | .stxl _, _ | .stxh _, _ | .styl _, _
  | .styh _, _
  | .jmp _, _ | .jeq _, _ | .jgt _, _ | .jlt _, _ => .read s.pc
  | .ldal _, n | .ldah _, n | .ldbl _, n | .ldbh _, n | .ldxl _, n | .ldxh _, n | .ldyl _, n
  | .ldyh _, n => if n = 3 then .read s.adr else .read s.pc
  | .lxal, n | .lxah, n | .lxbl, n | .lxbh, n | .lxxl, n | .lxxh, n | .lxyl, n
  | .lxyh, n => if n = 0 then .read s.pc else .read s.x
  | .lyal, n | .lyah, n | .lybl, n | .lybh, n | .lyxl, n | .lyxh, n | .lyyl, n
  | .lyyh, n => if n = 0 then .read s.pc else .read s.y
  | .popal, n | .popah, n | .popbl, n | .popbh, n | .popxl, n | .popxh, n | .popyl, n | .popyh, n
  | .ret, n => if n = 0 then .read s.pc else .read s.stk
  | .call _, n => if n = 3 then .write (s.stk + 1) (hiByte s.returnAddress) else .read s.pc

/-- An instruction is in flight, and the bus holds its last bus operation or its fetch: either the tick
after its fetch tick has not run, or its opcode is legal and its handler has a row for the present cycle
(10_state.md rule R45). -/
def State.InFlightOk (s : State) : Prop :=
  (s.opcode = 0 ∧ s.state = 0 ∧ s.HoldsFetch) ∨
  (1 ≤ s.state.toNat ∧ s.state.toNat ≤ 3 ∧
    ∃ i, opcodeInstr s.opcode = some i ∧ s.state.toNat < execCycles i ∧
      s.HoldsBusOp (s.lastBusOp i s.state.toNat))

/-- What the fault log of a halted core says (60_exceptions.md rule R404): nothing after HALT, one
record of the opcode byte and of pc after a fault. -/
def State.LogOk (s : State) : Prop :=
  (s.log = [] ∧ opcodeInstr s.opcode = some .halt) ∨
  (s.log = [⟨.illegalOpcode, s.opcode, s.pc⟩] ∧ opcodeInstr s.opcode = none) ∨
  (s.log = [⟨.divideByZero, s.opcode, s.pc⟩] ∧ opcodeInstr s.opcode = some .div ∧ s.b = 0)

/-- A halted core (60_exceptions.md rule R406): `fetch` is false, `state` is 1 unless the opcode byte
is 0x00, and the bus holds the answered read of the opcode byte at pc. -/
def State.HaltedOk (s : State) : Prop :=
  s.fetch = false ∧ s.state = (if s.opcode = 0 then 0 else 1) ∧ s.bus.data = s.opcode ∧
  s.HoldsFetch ∧ s.LogOk

/-- The control state of a state that a run reaches (10_state.md rule R45, 60_exceptions.md rules
R404 and R406). -/
def State.ControlOk (s : State) : Prop :=
  if s.halt then s.HaltedOk
  else s.log = [] ∧ if s.fetch then s.opcode = 0 ∧ s.state = 0 else s.InFlightOk

/-- The invariant: a well-formed platform, stores in canonical form, control state as 10_state.md
rule R45 has it. -/
def State.Inv (s : State) : Prop := s.platformOk = true ∧ s.StoresOk ∧ s.ControlOk

/-- How a run stands, as a driver reads it from `halt` and the log (60_exceptions.md rule R404). -/
inductive StopReason where
  | running | haltInstruction | illegalOpcode | divideByZero
deriving DecidableEq, Repr

/-- The driver's reading of `halt` and the log (60_exceptions.md rule R404). -/
def State.stopReason (s : State) : StopReason :=
  if s.halt then
    match s.log with
    | [] => .haltInstruction
    | r :: _ =>
      match r.cause with
      | .illegalOpcode => .illegalOpcode
      | .divideByZero => .divideByZero
  else .running

/-- A run that has met no fault (60_exceptions.md rule R404). -/
def State.noFault (s : State) : Bool := s.log.isEmpty

end Sys2Proof.Machine
end

