-- ==== Sys2Proof/Certificates/Slice0/Obligations.lean ====
section
/-! DEFINITION. The statements for the provers. The helpers stand under `Sys2Proof.Claims`; each
statement is one `def Obligations.<Name> : Prop`, and OBLIGATIONS.json names the rules it formalises. -/

namespace Sys2Proof.Claims

open Sys2Proof Sys2Proof.Machine

/-! ## States a statement speaks of -/

/-- The core stands at an instruction boundary and has not halted: the controller state `Fetch` of
10_state.md rule R44. -/
def AtBoundary (s : State) : Prop := s.fetch = true ∧ s.halt = false

/-- The core is about to run exec cycle `n` of the instruction whose opcode byte is `op`: at cycle 0
the byte is still on the bus and `opcode` is unset, later it stands in `opcode` (10_state.md rule
R44, 40_controller.md rule R174). -/
def InFlight (s : State) (op n : Byte) : Prop :=
  s.fetch = false ∧ s.halt = false ∧ s.state = n ∧
    if n = 0 then s.opcode = 0 ∧ s.bus.data = op else s.opcode = op

/-- The byte on the bus after the fetch edge, the one after the edge that requests the first operand
byte, and the one after the edge that requests the second (20_memory.md rule R85). -/
def byte0 (s : State) : Byte := s.answer s.pc s.bus.data
def byte1 (s : State) : Byte := s.answer (s.pc + 1) (byte0 s)
def byte2 (s : State) : Byte := s.answer (s.pc + 2) (byte1 s)

/-- The bus after the core has issued a read of `A`: the data latch is as it was (20_memory.md rule
R72). -/
def readOf (s : State) (A : Word) : Bus := ⟨A, s.bus.data, true⟩

/-- An outcome that is a next state and leaves every byte of memory as it was. -/
def NextSameMemory (o : Host.Outcome State Fault Refusal) (s t : State) : Prop :=
  o = .next t ∧ ∀ A : Word, t.memRead A = s.memRead A

/-- From `s` to `t` exactly one byte was stored, `v` at `A`: kept where the device that claims `A` is
writable, lost otherwise; no device changed its parameters (20_memory.md rules R85, R101). -/
def StoresOnly (s t : State) (A : Word) (v : Byte) : Prop :=
  t.memRead A = (if s.writableAt A then some v else s.memRead A) ∧
  (∀ B : Word, B ≠ A → t.memRead B = s.memRead B) ∧
  t.devices.map (fun d => d.cfg) = s.devices.map (fun d => d.cfg)

/-! ## The rows of the opcode map, written from the list of 30_encoding.md rule R128 -/

def setTable : List (Byte × (Word → Instr) × Reg) :=
  [(0x12, .setstk, .stk), (0x16, .seta, .a), (0x18, .setb, .b), (0x1A, .setx, .x), (0x1C, .sety, .y)]

def loadTable : List (Byte × (Word → Instr) × Half) :=
  [(0x26, .ldal, ⟨.a, .lo⟩), (0x27, .ldah, ⟨.a, .hi⟩), (0x28, .ldbl, ⟨.b, .lo⟩),
   (0x29, .ldbh, ⟨.b, .hi⟩), (0x2A, .ldxl, ⟨.x, .lo⟩), (0x2B, .ldxh, ⟨.x, .hi⟩),
   (0x2C, .ldyl, ⟨.y, .lo⟩), (0x2D, .ldyh, ⟨.y, .hi⟩)]

def storeTable : List (Byte × (Word → Instr) × Half) :=
  [(0x36, .stal, ⟨.a, .lo⟩), (0x37, .stah, ⟨.a, .hi⟩), (0x38, .stbl, ⟨.b, .lo⟩),
   (0x39, .stbh, ⟨.b, .hi⟩), (0x3A, .stxl, ⟨.x, .lo⟩), (0x3B, .stxh, ⟨.x, .hi⟩),
   (0x3C, .styl, ⟨.y, .lo⟩), (0x3D, .styh, ⟨.y, .hi⟩)]

def indirectTable : List (Byte × Instr × Reg × Half) :=
  [(0x46, .lxal, .x, ⟨.a, .lo⟩), (0x47, .lxah, .x, ⟨.a, .hi⟩), (0x48, .lxbl, .x, ⟨.b, .lo⟩),
   (0x49, .lxbh, .x, ⟨.b, .hi⟩), (0x4A, .lxxl, .x, ⟨.x, .lo⟩), (0x4B, .lxxh, .x, ⟨.x, .hi⟩),
   (0x4C, .lxyl, .x, ⟨.y, .lo⟩), (0x4D, .lxyh, .x, ⟨.y, .hi⟩),
   (0x56, .lyal, .y, ⟨.a, .lo⟩), (0x57, .lyah, .y, ⟨.a, .hi⟩), (0x58, .lybl, .y, ⟨.b, .lo⟩),
   (0x59, .lybh, .y, ⟨.b, .hi⟩), (0x5A, .lyxl, .y, ⟨.x, .lo⟩), (0x5B, .lyxh, .y, ⟨.x, .hi⟩),
   (0x5C, .lyyl, .y, ⟨.y, .lo⟩), (0x5D, .lyyh, .y, ⟨.y, .hi⟩)]

def pushTable : List (Byte × Instr × Half) :=
  [(0x66, .pushal, ⟨.a, .lo⟩), (0x67, .pushah, ⟨.a, .hi⟩), (0x68, .pushbl, ⟨.b, .lo⟩),
   (0x69, .pushbh, ⟨.b, .hi⟩), (0x6A, .pushxl, ⟨.x, .lo⟩), (0x6B, .pushxh, ⟨.x, .hi⟩),
   (0x6C, .pushyl, ⟨.y, .lo⟩), (0x6D, .pushyh, ⟨.y, .hi⟩)]

def popTable : List (Byte × Instr × Half) :=
  [(0x76, .popal, ⟨.a, .lo⟩), (0x77, .popah, ⟨.a, .hi⟩), (0x78, .popbl, ⟨.b, .lo⟩),
   (0x79, .popbh, ⟨.b, .hi⟩), (0x7A, .popxl, ⟨.x, .lo⟩), (0x7B, .popxh, ⟨.x, .hi⟩),
   (0x7C, .popyl, ⟨.y, .lo⟩), (0x7D, .popyh, ⟨.y, .hi⟩)]

def relJumpTable : List (Byte × (Byte → Instr) × Cond) :=
  [(0x90, .jmpr, .always), (0x91, .jeqr, .equal), (0x92, .jgtr, .greater), (0x93, .jltr, .less)]

def absJumpTable : List (Byte × (Word → Instr) × Cond) :=
  [(0xA0, .jmp, .always), (0xA1, .jeq, .equal), (0xA2, .jgt, .greater), (0xA3, .jlt, .less)]

def transferTable : List (Byte × Instr × Reg × Reg) :=
  [(0xB8, .tab, .a, .b), (0xBA, .tax, .a, .x), (0xBC, .tay, .a, .y),
   (0xC6, .tba, .b, .a), (0xCA, .tbx, .b, .x), (0xCC, .tby, .b, .y),
   (0xD6, .txa, .x, .a), (0xD8, .txb, .x, .b), (0xDC, .txy, .x, .y),
   (0xE6, .tya, .y, .a), (0xE8, .tyb, .y, .b), (0xEA, .tyx, .y, .x)]

/-- INCX, DECX, INCY, DECY with the register and the number they add modulo 65536. -/
def pointerTable : List (Byte × Instr × Reg × Int) :=
  [(0x88, .incx, .x, 1), (0x89, .decx, .x, -1), (0x8A, .incy, .y, 1), (0x8B, .decy, .y, -1)]

/-- ADD, SUB and MUL with the integer operation they perform modulo 65536. -/
def aluTable : List (Byte × Instr × (Int → Int → Int)) :=
  [(0x81, .add, (· + ·)), (0x82, .sub, (· - ·)), (0x83, .mul, (· * ·))]

/-- The value modulo 65536 of an integer, as a word (00_scope.md rule R10). -/
def wrap (n : Int) : Word := BitVec.ofInt 16 n

/-- The condition of a jump as a comparison of the unsigned values of a and b (45_jumps_and_calls.md
rule R301). -/
def condTrue (s : State) : Cond → Prop
  | .always => True
  | .equal => s.a.toNat = s.b.toNat
  | .greater => s.a.toNat > s.b.toNat
  | .less => s.a.toNat < s.b.toNat

/-- The illegal opcode bytes as 30_encoding.md rule R130 lists them. -/
def illegalRanges : List (Nat × Nat) :=
  [(0x00, 0x00), (0x02, 0x11), (0x13, 0x15), (0x17, 0x17), (0x19, 0x19), (0x1B, 0x1B), (0x1D, 0x25),
   (0x2E, 0x35), (0x3E, 0x45), (0x4E, 0x55), (0x5E, 0x65), (0x6E, 0x75), (0x7E, 0x80), (0x85, 0x87),
   (0x8C, 0x8F), (0x94, 0x9F), (0xA4, 0xA7), (0xAA, 0xB7), (0xB9, 0xB9), (0xBB, 0xBB), (0xBD, 0xC5),
   (0xC7, 0xC9), (0xCB, 0xCB), (0xCD, 0xD5), (0xD7, 0xD7), (0xD9, 0xDB), (0xDD, 0xE5), (0xE7, 0xE7),
   (0xE9, 0xE9), (0xEB, 0xFF)]

/-- A byte of the list of illegal opcodes. -/
def Illegal (op : Byte) : Prop := ∃ r ∈ illegalRanges, r.1 ≤ op.toNat ∧ op.toNat ≤ r.2

/-- The state on entry to `Halted` by the instruction at pc whose opcode byte is `op`, with `records`
added to the log (60_exceptions.md rule R406). -/
def haltedAt (s : State) (op : Byte) (records : List FaultRecord) : State :=
  { s with opcode := op, state := if op = 0 then 0 else 1, fetch := false, halt := true
           bus := ⟨s.pc, byte0 s, true⟩, log := s.log ++ records }

end Sys2Proof.Claims

open Sys2Proof Sys2Proof.Machine Sys2Proof.Claims

/-! ## Encoding -/

/-- One word of each family, bit by bit from 30_encoding.md rules R121, R124, R125 and R128: the
decoder reads the instruction it stands for. -/
def Obligations.SpecWordsDecode : Prop :=
  decode [0x01] = .ok (.halt, []) ∧
  decode [0x12, 0xFF, 0x7F] = .ok (.setstk 0x7FFF, []) ∧
  decode [0x16, 0x34, 0x12] = .ok (.seta 0x1234, []) ∧
  decode [0x27, 0xFF, 0x7F] = .ok (.ldah 0x7FFF, []) ∧
  decode [0x3D, 0x40, 0x02] = .ok (.styh 0x0240, []) ∧
  decode [0x4B] = .ok (.lxxh, []) ∧
  decode [0x5C] = .ok (.lyyl, []) ∧
  decode [0x6D] = .ok (.pushyh, []) ∧
  decode [0x78] = .ok (.popbl, []) ∧
  decode [0x83] = .ok (.mul, []) ∧
  decode [0x8B] = .ok (.decy, []) ∧
  decode [0x93, 0xF0] = .ok (.jltr 0xF0, []) ∧
  decode [0xA2, 0x0A, 0x00] = .ok (.jgt 0x000A, []) ∧
  decode [0xA8, 0x13, 0x00] = .ok (.call 0x0013, []) ∧
  decode [0xA9] = .ok (.ret, []) ∧
  decode [0xDC] = .ok (.txy, [])

/-- Decode and encode agree: whatever follows an instruction's bytes, the decoder reads that
instruction, with every operand at every value, and leaves what follows. -/
def Obligations.DecodeInvertsEncode : Prop :=
  ∀ (i : Instr) (rest : List Byte), decode (encode i ++ rest) = .ok (i, rest)

/-- The other direction: what the decoder reads are the bytes that the encoder writes, so no byte
stream is read with a bit of it dropped. -/
def Obligations.EncodeInvertsDecode : Prop :=
  ∀ (bytes rest : List Byte) (i : Instr), decode bytes = .ok (i, rest) → encode i ++ rest = bytes

/-- The 172 bytes that 30_encoding.md rule R130 lists, and no others, are illegal opcodes; one of them
at pc sets `halt` and logs cause code 1 with the byte and pc at exec cycle 0, the tick after the fetch
tick, requests no operand byte and changes no register and no byte of memory (the spec's decisions D1, D5
and D15). -/
def Obligations.IllegalOpcodeHaltsTheCore : Prop :=
  causeCode .illegalOpcode = 1 ∧
  (∀ (op : Byte) (rest : List Byte), decode (op :: rest) = .error (.illegalOpcode op) ↔ Illegal op) ∧
  (∀ (s : State) (op : Byte), Illegal op → InFlight s op 0 →
    s.tick = .next { s with opcode := op, state := if op = 0 then 0 else 1, halt := true
                            log := s.log ++ [⟨.illegalOpcode, op, s.pc⟩] }) ∧
  (∀ s : State, AtBoundary s → s.platformOk = true → Illegal (byte0 s) →
    NextSameMemory (step s) s (haltedAt s (byte0 s) [⟨.illegalOpcode, byte0 s, s.pc⟩]))

/-! ## Registers, bus and devices -/

/-- Writing one half of a register and reading back: the half reads as written, the other half of that
register and every other register as before, and the full register is the two halves joined. -/
def Obligations.HalfWriteKeepsTheOtherHalf : Prop :=
  ∀ (s : State) (r : Reg) (v : Byte),
    ((s.setHalf ⟨r, .lo⟩ v).getHalf ⟨r, .lo⟩ = v ∧
      (s.setHalf ⟨r, .lo⟩ v).getHalf ⟨r, .hi⟩ = s.getHalf ⟨r, .hi⟩) ∧
    ((s.setHalf ⟨r, .hi⟩ v).getHalf ⟨r, .hi⟩ = v ∧
      (s.setHalf ⟨r, .hi⟩ v).getHalf ⟨r, .lo⟩ = s.getHalf ⟨r, .lo⟩) ∧
    (s.get r).toNat = 256 * (s.getHalf ⟨r, .hi⟩).toNat + (s.getHalf ⟨r, .lo⟩).toNat ∧
    ∀ (p : Part) (r' : Reg), r' ≠ r → (s.setHalf ⟨r, p⟩ v).get r' = s.get r'

/-- The extended byte is the byte below 128 and the byte plus 0xFF00 from 128 on, so it is the byte's
two's-complement value modulo 65536. -/
def Obligations.SignExtensionIsTwosComplement : Prop :=
  ∀ v : Byte, (sext16 v).toNat = (if v.toNat < 128 then v.toNat else v.toNat + 0xFF00) ∧
    sext16 v = wrap (if v.toNat < 128 then (v.toNat : Int) else (v.toNat : Int) - 256)

/-- What the two bus operations latch, and what the claiming device makes of each on its next tick. -/
def Obligations.BusOperationsLatch : Prop :=
  ∀ (s : State) (A : Word) (v : Byte),
    s.busWrite A v = { s with bus := ⟨A, v, false⟩ } ∧
    s.busRead A = { s with bus := ⟨A, s.bus.data, true⟩ } ∧
    ∀ (d : Device) (t : State), t.devices = [d] → d.claims A = true →
      (t.busRead A).tickDevices.bus.data = d.load A ∧
      (d.cfg.writable = true → (t.busWrite A v).tickDevices.memRead A = some v)

/-- The device contract: a device claims the addresses whose distance from its mount base, modulo
65536, is below its window size; it answers a read with the byte of its store at that offset, takes a
write into its store if it is writable, does nothing otherwise, and never changes the bus address or
the read intent. The flag is the spec's decision D21. -/
def Obligations.DeviceContract : Prop :=
  ∀ (d : Device) (bus : Bus),
    let offset : Nat := (bus.address.toNat + 65536 - d.cfg.mountBase.toNat) % 65536
    (d.cfg.windowSize.toNat ≤ offset → d.tick bus = (d, bus)) ∧
    (offset < d.cfg.windowSize.toNat → bus.readIntent = true →
      d.tick bus = (d, ⟨bus.address, Memory.read d.store offset, true⟩)) ∧
    (offset < d.cfg.windowSize.toNat → bus.readIntent = false → d.cfg.writable = true →
      d.tick bus = ({ d with store := Memory.write d.store offset bus.data }, bus)) ∧
    (offset < d.cfg.windowSize.toNat → bus.readIntent = false → d.cfg.writable = false →
      d.tick bus = (d, bus))

/-- The device part of an edge that holds a read: the byte at the address is on the bus, or the latch
keeps its byte where no device claims the address; nothing else changes, and answering again changes
nothing. -/
def Obligations.ReadIsAnsweredOrStale : Prop :=
  ∀ s : State, s.bus.readIntent = true →
    (s.tickDevices = { s with bus := ⟨s.bus.address, s.answer s.bus.address s.bus.data, true⟩ } ∧
      s.tickDevices.tickDevices = s.tickDevices) ∧
    (∀ v, s.memRead s.bus.address = some v → s.tickDevices.bus.data = v) ∧
    (s.memRead s.bus.address = none → s.tickDevices = s)

/-- The device part of an edge that holds a write: the byte is at the address if a writable device
claims it and is lost otherwise; every other address reads as before, and the bus and the core do not
change. -/
def Obligations.WriteIsStoredOrLost : Prop :=
  ∀ s : State, s.bus.readIntent = false →
    s.tickDevices = { s with devices := s.tickDevices.devices } ∧
    StoresOnly s s.tickDevices s.bus.address s.bus.data

/-- On a well-formed platform an address has at most one claiming device, and a memory read is that
device's byte. -/
def Obligations.OneDeviceClaimsAnAddress : Prop :=
  ∀ (s : State) (A : Word), s.platformOk = true →
    (s.devices.filter (fun d => d.claims A)).length ≤ 1 ∧
    ∀ d ∈ s.devices, d.claims A = true → s.memRead A = some (d.load A)

/-! ## The controller -/

/-- A halted core's tick changes nothing at all. -/
def Obligations.HaltedTickChangesNothing : Prop :=
  ∀ s : State, s.halt = true → s.tick = .next s

/-- The fetch tick: `opcode`, `state` and `fetch` cleared, the read of pc issued, pc and every other
register as they were, `bus.data` not sampled. -/
def Obligations.FetchTickRequestsTheOpcode : Prop :=
  ∀ s : State, AtBoundary s →
    s.tick = .next { s with opcode := 0, state := 0, fetch := false, bus := readOf s s.pc }

/-- `NextByte()`, `advance()` and `raise Fault`: what each changes, with the program counter modulo
65536. -/
def Obligations.ControllerPrimitives : Prop :=
  ∀ (s : State) (c : Cause) (D : Byte),
    s.nextByte = { s with pc := wrap (s.pc.toNat + 1), bus := readOf s (wrap (s.pc.toNat + 1)) } ∧
    s.advance = { s with pc := wrap (s.pc.toNat + 1), fetch := true, state := 0, opcode := 0 } ∧
    s.raise c D = { s with log := s.log ++ [⟨c, D, s.pc⟩], halt := true }

/-- A step runs the decoded instruction: at a boundary, on a well-formed platform, when the bytes at
pc decode to a well-formed instruction, the step is that instruction's meaning. -/
def Obligations.StepRunsTheDecodedInstruction : Prop :=
  ∀ (s : State) (i : Instr) (rest : List Byte), AtBoundary s → s.platformOk = true →
    decode [byte0 s, byte1 s, byte2 s] = .ok (i, rest) → i.wf = true → step s = exec i s

/-- An instruction is its edges, on every platform and whatever the addresses hold: from a boundary, as
many edges of the tick algorithm and the device ticks as the tick count of 70_reset_and_hazards.md rule
R460 says give what the instruction's meaning gives, and the instruction is in flight after each edge
before the last; an illegal opcode takes two edges. Where the platform is well formed, that is the step;
on the others the step is refused (log 5). -/
def Obligations.StepIsItsEdges : Prop :=
  ∀ s : State, AtBoundary s →
    (∀ (i : Instr) (rest : List Byte), decode [byte0 s, byte1 s, byte2 s] = .ok (i, rest) →
      State.edges (ticksOf i) s = exec i s ∧
      (∀ n t, n < ticksOf i → State.edges n s = .next t → n ≠ 0 → t.fetch = false ∧ t.halt = false) ∧
      (s.platformOk = true → step s = State.edges (ticksOf i) s)) ∧
    (∀ e, decode [byte0 s, byte1 s, byte2 s] = .error e →
      State.edges 2 s = .next (s.takeIllegalOpcode (byte0 s)) ∧
      (∀ t, State.edges 1 s = .next t → t.fetch = false ∧ t.halt = false) ∧
      (s.platformOk = true → step s = State.edges 2 s))

/-- The ticks of 70_reset_and_hazards.md rule R460, family by family. -/
def Obligations.TickCounts : Prop :=
  (∀ e ∈ setTable, ∀ w, ticksOf (e.2.1 w) = 4) ∧ (∀ e ∈ loadTable, ∀ w, ticksOf (e.2.1 w) = 5) ∧
  (∀ e ∈ storeTable, ∀ w, ticksOf (e.2.1 w) = 4) ∧ (∀ e ∈ indirectTable, ticksOf e.2.1 = 3) ∧
  (∀ e ∈ aluTable, ticksOf e.2.1 = 2) ∧ ticksOf .div = 2 ∧ (∀ e ∈ pointerTable, ticksOf e.2.1 = 2) ∧
  (∀ e ∈ relJumpTable, ∀ v, ticksOf (e.2.1 v) = 3) ∧
  (∀ e ∈ absJumpTable, ∀ w, ticksOf (e.2.1 w) = 4) ∧ (∀ e ∈ pushTable, ticksOf e.2.1 = 2) ∧
  (∀ e ∈ popTable, ticksOf e.2.1 = 3) ∧ (∀ e ∈ transferTable, ticksOf e.2.1 = 2) ∧
  (∀ w, ticksOf (.call w) = 5) ∧ ticksOf .ret = 4 ∧ ticksOf .halt = 2

/-- A step from the middle of an instruction carries it to the same boundary: when `n` edges from a
boundary have run and the instruction has been in flight after each of them, the step gives what the
step from the boundary gives. The model's choice for such a state (log 10). -/
def Obligations.StepCompletesAnInstructionInFlight : Prop :=
  ∀ (s t : State) (n : Nat), AtBoundary s → s.platformOk = true → 0 < n →
    State.edges n s = .next t →
    (∀ k u, 0 < k → k ≤ n → State.edges k s = .next u → u.fetch = false ∧ u.halt = false) →
    step t = step s

/-! ## Reset, invariants, whole-machine rules -/

/-- The reset state on devices whose stores hold the initial image; the log and the bus are the spec's
decisions D15 and D16. -/
def Obligations.ResetStateIsAsStated : Prop :=
  ∀ ds : List Device,
    let s := State.resetOn ds
    (∀ r : Reg, s.get r = 0x0000) ∧ s.opcode = 0x00 ∧ s.state = 0 ∧ s.halt = false ∧ s.fetch = true ∧
    s.log = [] ∧ s.bus = ⟨0x0000, 0x00, false⟩ ∧ s.devices = ds

/-- The reset of the model: the reference platform with stores that list nothing, every claimed
address reading 0x00, so that the first step takes the illegal opcode 0x00 at 0x0000. The platform and
the image are the model's choice (logs 2 and 3). -/
def Obligations.ResetOnTheReferencePlatform : Prop :=
  State.reset = State.resetOn [⟨⟨0x0000, 0x8000, true⟩, []⟩] ∧
  (∀ A : Word, State.reset.memRead A = if A.toNat < 0x8000 then some 0x00 else none) ∧
  step State.reset = .next { State.reset with
    fetch := false, halt := true, bus := ⟨0x0000, 0x00, true⟩, log := [⟨.illegalOpcode, 0x00, 0x0000⟩] }

/-- The reset of the bus is visible in one case only. Where no device claims address 0x0000, the first
opcode is the reset value of `bus.data`, and the core halts at tick 2 with an IllegalOpcode record of
opcode 0x00 and pc 0x0000; where a device claims it, no value of the latches makes a difference. The
reset value is the spec's decision D16. -/
def Obligations.BusResetIsVisibleInOneCase : Prop :=
  ∀ ds : List Device, platformWf (ds.map (fun d => d.cfg)) = true →
    (State.resetOn ds).bus = ⟨0x0000, 0x00, false⟩ ∧
    ((State.resetOn ds).memRead 0x0000 = none →
      step (State.resetOn ds) = State.edges 2 (State.resetOn ds) ∧
      step (State.resetOn ds) = .next { State.resetOn ds with
        fetch := false, halt := true, bus := ⟨0x0000, 0x00, true⟩
        log := [⟨.illegalOpcode, 0x00, 0x0000⟩] }) ∧
    ((State.resetOn ds).memRead 0x0000 ≠ none → ∀ bus : Bus,
      step { State.resetOn ds with bus := bus } = step (State.resetOn ds))

/-- The invariant holds of the model's reset state, and of the reset state on every well-formed
platform whose stores are in order (logs 2 and 3). -/
def Obligations.InvariantHoldsAtReset : Prop :=
  State.reset.Inv ∧
  ∀ ds : List Device, platformWf (ds.map (fun d => d.cfg)) = true →
    (∀ d ∈ ds, d.storeOk = true) → (State.resetOn ds).Inv

/-- Every edge keeps the invariant: the control state of 10_state.md rule R45 with the bus operation that
an instruction in flight last issued, answered or stored by the devices; the form of `Halted` of
60_exceptions.md rules R404 and R406; the stores' canonical form and the platform's well-formedness. -/
def Obligations.EveryEdgeKeepsTheInvariant : Prop :=
  ∀ s t : State, s.Inv → s.edge = .next t → t.Inv

/-- Every step keeps the same invariant, from every state that has it: at a boundary, in `Halted` and
inside an instruction. -/
def Obligations.EveryStepKeepsTheInvariant : Prop :=
  ∀ s t : State, s.Inv → step s = .next t → t.Inv

/-- No state with the invariant is stuck: its edge and its step answer a next state, and the step ends
at an instruction boundary or in `Halted`. -/
def Obligations.EveryStateHasANextStep : Prop :=
  ∀ s : State, s.Inv → (∃ t, s.edge = .next t) ∧
    ∃ t, step s = .next t ∧ (t.fetch = true ∨ t.halt = true)

/-- `Halted` is absorbing: a step from it changes no register, no control state and no log entry and
leaves `halt` set; in a state with the invariant it changes nothing at all. -/
def Obligations.HaltedIsAbsorbing : Prop :=
  (∀ s : State, s.halt = true → s.platformOk = true →
    ∃ t, step s = .next t ∧ t = { s with bus := t.bus, devices := t.devices }) ∧
  (∀ s : State, s.Inv → s.halt = true → step s = .next s)

/-- Only HALT, an illegal opcode and a division by zero stop the core: what the log and `halt` tell a
driver after a step from a boundary is decided by the instruction at pc. -/
def Obligations.OnlyHaltAndTheTwoFaultsStop : Prop :=
  ∀ s t : State, s.Inv → AtBoundary s → step s = .next t →
    t.stopReason =
      match decode [byte0 s, byte1 s, byte2 s] with
      | .error _ => StopReason.illegalOpcode
      | .ok (.halt, _) => StopReason.haltInstruction
      | .ok (.div, _) => if s.b = 0 then StopReason.divideByZero else StopReason.running
      | .ok _ => StopReason.running

/-- No step mounts, unmounts or changes a device: only stores change. -/
def Obligations.StepsKeepThePlatform : Prop :=
  ∀ s t : State, step s = .next t →
    t.devices.map (fun d => d.cfg) = s.devices.map (fun d => d.cfg)

/-- A platform with overlapping windows or a window past the top of the address space is refused. -/
def Obligations.IllFormedPlatformIsRefused : Prop :=
  ∀ s : State,
    (step s = .refused .illFormedPlatform ↔ s.platformOk = false) ∧
    (∀ d ∈ s.devices, d.cfg.mountBase.toNat + d.cfg.windowSize.toNat > 65536 →
      s.platformOk = false) ∧
    (∀ (front back : List Device) (d e : Device) (A : Word), s.devices = front ++ back → d ∈ front →
      e ∈ back → d.claims A = true → e.claims A = true → s.platformOk = false)

/-- Only ST, PUSH and CALL change memory: any other instruction leaves every byte as it was. -/
def Obligations.OnlyStoresPushesAndCallsChangeMemory : Prop :=
  ∀ (i : Instr) (s t : State), exec i s = .next t →
    (∀ e ∈ storeTable, ∀ w, i ≠ e.2.1 w) → (∀ e ∈ pushTable, i ≠ e.2.1) → (∀ w, i ≠ .call w) →
    ∀ A : Word, t.memRead A = s.memRead A

/-- The address latch cannot be observed by a program: two states that differ in `adr` alone run every
instruction to states that differ in `adr` at most. -/
def Obligations.AddressLatchIsUnobservable : Prop :=
  ∀ (i : Instr) (s : State) (v : Word), ∃ t u : State,
    exec i s = .next t ∧ exec i { s with adr := v } = .next u ∧ u = { t with adr := u.adr }

/-- A program cannot read the stack pointer: an instruction that does not use the stack runs two states
that differ in `stk` alone to states that differ in `stk` at most. -/
def Obligations.StackPointerIsNotReadable : Prop :=
  ∀ (i : Instr) (s : State) (v : Word),
    (∀ e ∈ pushTable, i ≠ e.2.1) → (∀ e ∈ popTable, i ≠ e.2.1) → (∀ w, i ≠ .call w) → i ≠ .ret →
    ∃ t u : State,
      exec i s = .next t ∧ exec i { s with stk := v } = .next u ∧ u = { t with stk := u.stk }

/-! ## The instructions -/

/-- HALT: two ticks; `halt` is set, `pc` stays at the instruction, no record is logged, every register
and every byte of memory is as before, and no number of edges changes anything after it (the spec's
decisions D12 and D14). -/
def Obligations.HaltStopsTheCore : Prop :=
  encode .halt = [0x01] ∧ execCycles .halt = 1 ∧
  (∀ s : State, InFlight s 0x01 0 →
    s.tick = .next { s with opcode := 0x01, state := 1, halt := true }) ∧
  (∀ s : State, AtBoundary s → NextSameMemory (exec .halt s) s
    { s with opcode := 0x01, state := 1, fetch := false, halt := true, bus := ⟨s.pc, byte0 s, true⟩ }) ∧
  (∀ (s t : State) (n : Nat), AtBoundary s → exec .halt s = .next t → State.edges n t = .next t)

/-- SET r, imm16: three exec cycles, low operand byte first; the register holds the operand, pc is past
the three bytes, nothing else changes but the bus, which holds the last operand read. -/
def Obligations.SetWritesItsRegister : Prop :=
  ∀ e ∈ setTable,
    (∀ imm16, encode (e.2.1 imm16) = [e.1, loByte imm16, hiByte imm16] ∧
      execCycles (e.2.1 imm16) = 3) ∧
    (∀ s : State, InFlight s e.1 0 →
      s.tick = .next { s with opcode := e.1, state := 1, pc := s.pc + 1, bus := readOf s (s.pc + 1) }) ∧
    (∀ s : State, InFlight s e.1 1 →
      s.tick = .next { s.setHalf ⟨e.2.2, .lo⟩ s.bus.data with
        state := 2, pc := s.pc + 1, bus := readOf s (s.pc + 1) }) ∧
    (∀ s : State, InFlight s e.1 2 →
      s.tick = .next { s.setHalf ⟨e.2.2, .hi⟩ s.bus.data with
        state := 0, opcode := 0, fetch := true, pc := s.pc + 1 }) ∧
    (∀ (s : State) (imm16 : Word), AtBoundary s → NextSameMemory (exec (e.2.1 imm16) s) s
      { s.set e.2.2 imm16 with
        pc := s.pc + 3, opcode := 0, state := 0, bus := ⟨s.pc + 2, byte2 s, true⟩ })

/-- LD h, abs16: four exec cycles; the half takes the byte at `abs16` (or the stale byte where no device
claims it: the latch keeps its byte, log 7), the other half is kept, `adr` holds `abs16`. -/
def Obligations.LoadReadsTheAbsoluteAddress : Prop :=
  ∀ e ∈ loadTable,
    (∀ abs16, encode (e.2.1 abs16) = [e.1, loByte abs16, hiByte abs16] ∧
      execCycles (e.2.1 abs16) = 4) ∧
    (∀ s : State, InFlight s e.1 0 →
      s.tick = .next { s with opcode := e.1, state := 1, pc := s.pc + 1, bus := readOf s (s.pc + 1) }) ∧
    (∀ s : State, InFlight s e.1 1 →
      s.tick = .next { s with adr := joinBytes (hiByte s.adr) s.bus.data
                              state := 2, pc := s.pc + 1, bus := readOf s (s.pc + 1) }) ∧
    (∀ s : State, InFlight s e.1 2 →
      s.tick = .next { s with adr := joinBytes s.bus.data (loByte s.adr)
                              state := 3, bus := readOf s (joinBytes s.bus.data (loByte s.adr)) }) ∧
    (∀ s : State, InFlight s e.1 3 →
      s.tick = .next { s.setHalf e.2.2 s.bus.data with
        state := 0, opcode := 0, fetch := true, pc := s.pc + 1 }) ∧
    (∀ (s : State) (abs16 : Word), AtBoundary s → NextSameMemory (exec (e.2.1 abs16) s) s
      { s.setHalf e.2.2 (s.answer abs16 (byte2 s)) with
        adr := abs16, pc := s.pc + 3, opcode := 0, state := 0
        bus := ⟨abs16, s.answer abs16 (byte2 s), true⟩ })

/-- ST h, abs16: three exec cycles; the byte at `abs16`, and no other, takes the half (it is lost where
no writable device claims the address); no general register changes, `adr` holds `abs16`. -/
def Obligations.StoreWritesTheAbsoluteAddress : Prop :=
  ∀ e ∈ storeTable,
    (∀ abs16, encode (e.2.1 abs16) = [e.1, loByte abs16, hiByte abs16] ∧
      execCycles (e.2.1 abs16) = 3) ∧
    (∀ s : State, InFlight s e.1 0 →
      s.tick = .next { s with opcode := e.1, state := 1, pc := s.pc + 1, bus := readOf s (s.pc + 1) }) ∧
    (∀ s : State, InFlight s e.1 1 →
      s.tick = .next { s with adr := joinBytes (hiByte s.adr) s.bus.data
                              state := 2, pc := s.pc + 1, bus := readOf s (s.pc + 1) }) ∧
    (∀ s : State, InFlight s e.1 2 →
      s.tick = .next { s with
        adr := joinBytes s.bus.data (loByte s.adr), state := 0, opcode := 0, fetch := true
        pc := s.pc + 1
        bus := ⟨joinBytes s.bus.data (loByte s.adr), s.getHalf e.2.2, false⟩ }) ∧
    (∀ (s : State) (abs16 : Word), AtBoundary s → ∃ t, exec (e.2.1 abs16) s = .next t ∧
      t = { s with adr := abs16, pc := s.pc + 3, opcode := 0, state := 0
                   bus := ⟨abs16, s.getHalf e.2.2, false⟩, devices := t.devices } ∧
      StoresOnly s t abs16 (s.getHalf e.2.2))

/-- LX h and LY h: two exec cycles; the half takes the byte at the pointer's value before the
instruction (or the stale byte where no device claims it: the latch keeps its byte, log 7), the other
half is kept. -/
def Obligations.IndirectLoadReadsThePointer : Prop :=
  ∀ e ∈ indirectTable,
    encode e.2.1 = [e.1] ∧ execCycles e.2.1 = 2 ∧
    (∀ s : State, InFlight s e.1 0 →
      s.tick = .next { s with opcode := e.1, state := 1, bus := readOf s (s.get e.2.2.1) }) ∧
    (∀ s : State, InFlight s e.1 1 →
      s.tick = .next { s.setHalf e.2.2.2 s.bus.data with
        state := 0, opcode := 0, fetch := true, pc := s.pc + 1 }) ∧
    (∀ s : State, AtBoundary s → NextSameMemory (exec e.2.1 s) s
      { s.setHalf e.2.2.2 (s.answer (s.get e.2.2.1) (byte0 s)) with
        pc := s.pc + 1, opcode := 0, state := 0
        bus := ⟨s.get e.2.2.1, s.answer (s.get e.2.2.1) (byte0 s), true⟩ })

/-- ADD, SUB and MUL: one exec cycle; a takes the sum, the difference a - b or the product of the
integers modulo 65536; b and everything else are kept. SUB and MUL are the spec's decision D10. -/
def Obligations.ArithmeticWrapsModulo65536 : Prop :=
  ∀ e ∈ aluTable,
    encode e.2.1 = [e.1] ∧ execCycles e.2.1 = 1 ∧
    (∀ s : State, InFlight s e.1 0 →
      s.tick = .next { s with a := wrap (e.2.2 s.a.toNat s.b.toNat), pc := s.pc + 1, fetch := true }) ∧
    (∀ s : State, AtBoundary s → NextSameMemory (exec e.2.1 s) s
      { s with a := wrap (e.2.2 s.a.toNat s.b.toNat), pc := s.pc + 1, opcode := 0, state := 0
               bus := ⟨s.pc, byte0 s, true⟩ })

/-- DIV: one exec cycle; a takes the floor of the unsigned quotient, the remainder is not kept, b and
everything else are as before. With b = 0 there is no quotient: `halt` is set, one record is logged, and
a, b and pc keep their values (the spec's decision D10). -/
def Obligations.DivisionTakesTheFloor : Prop :=
  encode .div = [0x84] ∧ execCycles .div = 1 ∧
  (∀ s : State, InFlight s 0x84 0 →
    s.tick = .next (if s.b = 0 then
      { s with opcode := 0x84, state := 1, halt := true, log := s.log ++ [⟨.divideByZero, 0x84, s.pc⟩] }
    else { s with a := wrap (s.a.toNat / s.b.toNat : Nat), pc := s.pc + 1, fetch := true })) ∧
  (∀ s : State, AtBoundary s → s.b ≠ 0 → NextSameMemory (exec .div s) s
    { s with a := wrap (s.a.toNat / s.b.toNat : Nat), pc := s.pc + 1, opcode := 0, state := 0
             bus := ⟨s.pc, byte0 s, true⟩ })

/-- DIV with b = 0, whatever a holds: the core halts with cause code 2, the byte 0x84 and the address of
the DIV in the log; no register and no byte of memory changes, and pc stays. No other instruction logs
anything (the spec's decisions D10 and D15). -/
def Obligations.DivisionByZeroHaltsTheCore : Prop :=
  causeCode .divideByZero = 2 ∧
  (∀ s : State, InFlight s 0x84 0 → s.b = 0 → ∃ t, s.tick = .next t ∧
    t.log = s.log ++ [⟨.divideByZero, 0x84, s.pc⟩] ∧ t.halt = true ∧ ∀ r : Reg, t.get r = s.get r) ∧
  (∀ s : State, AtBoundary s → s.b = 0 →
    NextSameMemory (exec .div s) s (haltedAt s 0x84 [⟨.divideByZero, 0x84, s.pc⟩])) ∧
  (∀ (i : Instr) (s : State), AtBoundary s → i ≠ .div →
    ∃ t, exec i s = .next t ∧ t.log = s.log ∧ (t.halt = true ↔ i = .halt))

/-- INCX, DECX, INCY and DECY: one exec cycle; the pointer register moves by one modulo 65536, nothing
else changes. -/
def Obligations.PointerStepsWrap : Prop :=
  ∀ e ∈ pointerTable,
    encode e.2.1 = [e.1] ∧ execCycles e.2.1 = 1 ∧
    (∀ s : State, InFlight s e.1 0 →
      s.tick = .next { s.set e.2.2.1 (wrap ((s.get e.2.2.1).toNat + e.2.2.2)) with
        pc := s.pc + 1, fetch := true }) ∧
    (∀ s : State, AtBoundary s → NextSameMemory (exec e.2.1 s) s
      { s.set e.2.2.1 (wrap ((s.get e.2.2.1).toNat + e.2.2.2)) with
        pc := s.pc + 1, opcode := 0, state := 0, bus := ⟨s.pc, byte0 s, true⟩ })

/-- Exactly one of equal, greater and less holds of the unsigned values of a and b, `always` holds, and
the condition of a jump is that comparison. -/
def Obligations.ConditionsCompareUnsigned : Prop :=
  ∀ s : State, (∀ c : Cond, c.holds s = true ↔ condTrue s c) ∧
    ((condTrue s .equal ∧ ¬ condTrue s .greater ∧ ¬ condTrue s .less) ∨
      (¬ condTrue s .equal ∧ condTrue s .greater ∧ ¬ condTrue s .less) ∨
      (¬ condTrue s .equal ∧ ¬ condTrue s .greater ∧ condTrue s .less))

/-- JMPR, JEQR, JGTR and JLTR: two exec cycles, taken or not; pc is the address of the following
instruction plus the signed displacement if the condition holds of a and b in cycle 1, plus 0 if it does
not, modulo 65536; no other register changes. -/
def Obligations.RelativeJumpAddsTheDisplacement : Prop :=
  ∀ e ∈ relJumpTable,
    (∀ rel8, encode (e.2.1 rel8) = [e.1, rel8] ∧ execCycles (e.2.1 rel8) = 2) ∧
    (∀ s : State, InFlight s e.1 0 →
      s.tick = .next { s with opcode := e.1, state := 1, pc := s.pc + 1, bus := readOf s (s.pc + 1) }) ∧
    (∀ s : State, InFlight s e.1 1 → ∃ target : Word,
      (condTrue s e.2.2 → target = wrap (s.pc.toNat + s.bus.data.toInt + 1)) ∧
      (¬ condTrue s e.2.2 → target = s.pc + 1) ∧
      s.tick = .next { s with pc := target, state := 0, opcode := 0, fetch := true }) ∧
    (∀ (s : State) (rel8 : Byte), AtBoundary s → ∃ target : Word,
      (condTrue s e.2.2 → target = wrap (s.pc.toNat + 2 + rel8.toInt)) ∧
      (¬ condTrue s e.2.2 → target = wrap (s.pc.toNat + 2)) ∧
      NextSameMemory (exec (e.2.1 rel8) s) s
        { s with pc := target, opcode := 0, state := 0, bus := ⟨s.pc + 1, byte1 s, true⟩ })

/-- JMP, JEQ, JGT and JLT: three exec cycles, taken or not; pc is `abs16` if the condition holds of a
and b in cycle 2 and the address after the instruction if it does not; `adr` holds `abs16` either way;
no general register changes. -/
def Obligations.AbsoluteJumpLandsOnTheOperand : Prop :=
  ∀ e ∈ absJumpTable,
    (∀ abs16, encode (e.2.1 abs16) = [e.1, loByte abs16, hiByte abs16] ∧
      execCycles (e.2.1 abs16) = 3) ∧
    (∀ s : State, InFlight s e.1 0 →
      s.tick = .next { s with opcode := e.1, state := 1, pc := s.pc + 1, bus := readOf s (s.pc + 1) }) ∧
    (∀ s : State, InFlight s e.1 1 →
      s.tick = .next { s with adr := joinBytes (hiByte s.adr) s.bus.data
                              state := 2, pc := s.pc + 1, bus := readOf s (s.pc + 1) }) ∧
    (∀ s : State, InFlight s e.1 2 → ∃ target : Word,
      (condTrue s e.2.2 → target = joinBytes s.bus.data (loByte s.adr)) ∧
      (¬ condTrue s e.2.2 → target = s.pc + 1) ∧
      s.tick = .next { s with adr := joinBytes s.bus.data (loByte s.adr)
                              pc := target, state := 0, opcode := 0, fetch := true }) ∧
    (∀ (s : State) (abs16 : Word), AtBoundary s → ∃ target : Word,
      (condTrue s e.2.2 → target = abs16) ∧ (¬ condTrue s e.2.2 → target = s.pc + 3) ∧
      NextSameMemory (exec (e.2.1 abs16) s) s
        { s with adr := abs16, pc := target, opcode := 0, state := 0
                 bus := ⟨s.pc + 2, byte2 s, true⟩ })

/-- CALL abs16: four exec cycles; the high byte of the address after the instruction is stored at stk
and the low byte one address below, no other byte of memory changes, stk moves down by 2, pc and `adr`
hold `abs16`; no general register changes (the spec's decision D13). -/
def Obligations.CallPushesTheReturnAddress : Prop :=
  (∀ abs16, encode (.call abs16) = [0xA8, loByte abs16, hiByte abs16] ∧
    execCycles (.call abs16) = 4) ∧
  (∀ s : State, InFlight s 0xA8 0 →
    s.tick = .next { s with opcode := 0xA8, state := 1, pc := s.pc + 1, bus := readOf s (s.pc + 1) }) ∧
  (∀ s : State, InFlight s 0xA8 1 →
    s.tick = .next { s with adr := joinBytes (hiByte s.adr) s.bus.data
                            state := 2, pc := s.pc + 1, bus := readOf s (s.pc + 1) }) ∧
  (∀ s : State, InFlight s 0xA8 2 →
    s.tick = .next { s with adr := joinBytes s.bus.data (loByte s.adr), state := 3
                            stk := s.stk - 1, bus := ⟨s.stk, hiByte (s.pc + 1), false⟩ }) ∧
  (∀ s : State, InFlight s 0xA8 3 →
    s.tick = .next { s with pc := s.adr, state := 0, opcode := 0, fetch := true
                            stk := s.stk - 1, bus := ⟨s.stk, loByte (s.pc + 1), false⟩ }) ∧
  (∀ (s : State) (abs16 : Word), AtBoundary s → ∃ t, exec (.call abs16) s = .next t ∧
    t = { s with adr := abs16, pc := abs16, stk := s.stk - 2, opcode := 0, state := 0
                 bus := ⟨s.stk - 1, loByte (s.pc + 3), false⟩, devices := t.devices } ∧
    t.memRead s.stk = (if s.writableAt s.stk then some (hiByte (s.pc + 3)) else s.memRead s.stk) ∧
    t.memRead (s.stk - 1) =
      (if s.writableAt (s.stk - 1) then some (loByte (s.pc + 3)) else s.memRead (s.stk - 1)) ∧
    (∀ A : Word, A ≠ s.stk → A ≠ s.stk - 1 → t.memRead A = s.memRead A) ∧
    t.devices.map (fun d => d.cfg) = s.devices.map (fun d => d.cfg))

/-- RET: three exec cycles; pc and `adr` take the two bytes above stk, low byte first (a stale byte
where no device claims the address), stk moves up by 2; no general register and no byte of memory
changes. After a CALL, with stk as the CALL left it and its two stacked bytes untouched, RET goes on
after the CALL and restores stk (the spec's decision D13). -/
def Obligations.ReturnPopsTheAddress : Prop :=
  encode .ret = [0xA9] ∧ execCycles .ret = 3 ∧
  (∀ s : State, InFlight s 0xA9 0 →
    s.tick = .next { s with opcode := 0xA9, state := 1
                            stk := s.stk + 1, bus := readOf s (s.stk + 1) }) ∧
  (∀ s : State, InFlight s 0xA9 1 →
    s.tick = .next { s with adr := joinBytes (hiByte s.adr) s.bus.data, state := 2
                            stk := s.stk + 1, bus := readOf s (s.stk + 1) }) ∧
  (∀ s : State, InFlight s 0xA9 2 →
    s.tick = .next { s with adr := joinBytes s.bus.data (loByte s.adr)
                            pc := joinBytes s.bus.data (loByte s.adr)
                            state := 0, opcode := 0, fetch := true }) ∧
  (∀ (s : State) (low high : Byte), AtBoundary s → low = s.answer (s.stk + 1) (byte0 s) →
    high = s.answer (s.stk + 2) low → NextSameMemory (exec .ret s) s
      { s with adr := joinBytes high low, pc := joinBytes high low, stk := s.stk + 2
               opcode := 0, state := 0, bus := ⟨s.stk + 2, high, true⟩ }) ∧
  (∀ (s t u : State) (abs16 : Word), AtBoundary s → s.writableAt s.stk = true →
    s.writableAt (s.stk - 1) = true → exec (.call abs16) s = .next t →
    AtBoundary u → u.stk = t.stk → u.memRead s.stk = t.memRead s.stk →
    u.memRead (s.stk - 1) = t.memRead (s.stk - 1) →
    ∃ v, exec .ret u = .next v ∧ v.pc = s.pc + 3 ∧ v.stk = s.stk)

/-- PUSH h: one exec cycle; the half is stored at stk and at no other address (it is lost where no
writable device claims the address), stk moves down by 1; no general register changes. -/
def Obligations.PushStoresAtTheStackPointer : Prop :=
  ∀ e ∈ pushTable,
    encode e.2.1 = [e.1] ∧ execCycles e.2.1 = 1 ∧
    (∀ s : State, InFlight s e.1 0 →
      s.tick = .next { s with stk := s.stk - 1, pc := s.pc + 1, fetch := true
                              bus := ⟨s.stk, s.getHalf e.2.2, false⟩ }) ∧
    (∀ s : State, AtBoundary s → ∃ t, exec e.2.1 s = .next t ∧
      t = { s with stk := s.stk - 1, pc := s.pc + 1, opcode := 0, state := 0
                   bus := ⟨s.stk, s.getHalf e.2.2, false⟩, devices := t.devices } ∧
      StoresOnly s t s.stk (s.getHalf e.2.2))

/-- POP h: two exec cycles; stk moves up by 1 and the half takes the byte there (the stale byte where no
device claims the address: the latch keeps its byte, log 7); the other half and every byte of memory
are kept. -/
def Obligations.PopReadsAboveTheStackPointer : Prop :=
  ∀ e ∈ popTable,
    encode e.2.1 = [e.1] ∧ execCycles e.2.1 = 2 ∧
    (∀ s : State, InFlight s e.1 0 →
      s.tick = .next { s with opcode := e.1, state := 1
                              stk := s.stk + 1, bus := readOf s (s.stk + 1) }) ∧
    (∀ s : State, InFlight s e.1 1 →
      s.tick = .next { s.setHalf e.2.2 s.bus.data with
        state := 0, opcode := 0, fetch := true, pc := s.pc + 1 }) ∧
    (∀ s : State, AtBoundary s → NextSameMemory (exec e.2.1 s) s
      { s.setHalf e.2.2 (s.answer (s.stk + 1) (byte0 s)) with
        stk := s.stk + 1, pc := s.pc + 1, opcode := 0, state := 0
        bus := ⟨s.stk + 1, s.answer (s.stk + 1) (byte0 s), true⟩ })

/-- T s d: one exec cycle; the destination takes all 16 bits of the source, the source and everything
else are kept. The twelve pairs are the spec's decision D11. -/
def Obligations.TransferCopiesTheRegister : Prop :=
  ∀ e ∈ transferTable,
    encode e.2.1 = [e.1] ∧ execCycles e.2.1 = 1 ∧
    (∀ s : State, InFlight s e.1 0 →
      s.tick = .next { s.set e.2.2.2 (s.get e.2.2.1) with pc := s.pc + 1, fetch := true }) ∧
    (∀ s : State, AtBoundary s → NextSameMemory (exec e.2.1 s) s
      { s.set e.2.2.2 (s.get e.2.2.1) with
        pc := s.pc + 1, opcode := 0, state := 0, bus := ⟨s.pc, byte0 s, true⟩ })

/-! ## Instructions together -/

/-- Push then pop of the same half: whatever the program counter, the bus, the other bytes of memory and
every register but the stack pointer hold in between, where the stack address was writable and its byte
has not changed since the push, the half returns to its pushed value and the stack pointer to its value
before the push. -/
def Obligations.PopUndoesPush : Prop :=
  ∀ (op op' : Byte) (push pop : Instr) (h : Half), (op, push, h) ∈ pushTable → (op', pop, h) ∈ popTable →
    ∀ s t u : State, AtBoundary s → s.writableAt s.stk = true → exec push s = .next t →
      AtBoundary u → u.stk = t.stk → u.memRead s.stk = t.memRead s.stk →
      ∃ v, exec pop u = .next v ∧ v.getHalf h = s.getHalf h ∧ v.stk = s.stk

/-- A store to the address of the next instruction is executed as written: the next fetch sees the
stored byte, with no fence in between. -/
def Obligations.StoreIsSeenByTheNextFetch : Prop :=
  ∀ e ∈ storeTable, ∀ s t : State, AtBoundary s → s.writableAt (s.pc + 3) = true →
    exec (e.2.1 (s.pc + 3)) s = .next t → AtBoundary t ∧ byte0 t = s.getHalf e.2.2

/-- Loads from an address that no device claims take the byte left on the bus: the high operand byte for
LD, the opcode byte for LX, LY and POP. -/
def Obligations.UnclaimedLoadsTakeTheStaleByte : Prop :=
  ∀ s : State, AtBoundary s →
    (∀ e ∈ loadTable, ∀ abs16, byte2 s = hiByte abs16 → s.memRead abs16 = none →
      ∃ t, exec (e.2.1 abs16) s = .next t ∧ t.getHalf e.2.2 = hiByte abs16) ∧
    (∀ e ∈ indirectTable, byte0 s = e.1 → s.memRead (s.get e.2.2.1) = none →
      ∃ t, exec e.2.1 s = .next t ∧ t.getHalf e.2.2.2 = e.1) ∧
    (∀ e ∈ popTable, byte0 s = e.1 → s.memRead (s.stk + 1) = none →
      ∃ t, exec e.2.1 s = .next t ∧ t.getHalf e.2.2 = e.1)

/-- The instruction bytes that `withFetchWord` places are the ones the next step runs: from the model's
reset state a word that decodes to an instruction makes the first step that instruction's meaning. The
placing stands for a loader (log 4). -/
def Obligations.LoadedWordRunsFirst : Prop :=
  ∀ (nbits w : Nat) (i : Instr), decodeTableWord nbits w = some i →
    step (State.reset.withFetchWord nbits w) = exec i (State.reset.withFetchWord nbits w)
end

