-- ==== Sys2Proof/Laws/Decode.lean ====
section
/-! SUPPORT. The byte-order helpers undo each other, and no instruction has the opcode 0x00. -/

namespace Sys2Proof

@[simp] theorem loByte_joinBytes (h l : Byte) : loByte (joinBytes h l) = l := by
  unfold loByte joinBytes
  exact BitVec.extractLsb'_append_eq_right

@[simp] theorem hiByte_joinBytes (h l : Byte) : hiByte (joinBytes h l) = h := by
  unfold hiByte joinBytes
  exact BitVec.extractLsb'_append_eq_left

@[simp] theorem joinBytes_hiByte_loByte (w : Word) : joinBytes (hiByte w) (loByte w) = w := by
  unfold joinBytes hiByte loByte
  exact (BitVec.extractLsb'_append_extractLsb'_eq_extractLsb' (x := w)
    (show (8 : Nat) = 0 + 8 from rfl)).trans BitVec.extractLsb'_eq_self

/-- No instruction has the opcode 0x00, the value that means unset (30_encoding.md rule R131). -/
theorem encode_head_ne_zero (i : Instr) : (encode i).headD 0 ≠ 0 := by
  cases i <;> simp [encode]

end Sys2Proof
end

