-- ==== Sys2Proof/Laws/Memory.lean ====
section
/-! SUPPORT. What the operations on a backing store do: reading after writing, and the canonical form
that every operation keeps. -/

namespace Sys2Proof.Machine

/-! ## Reading after an operation -/

theorem Memory.read_erase_same (m : Memory) (i : Nat) :
    Memory.read (Memory.erase m i) i = Config.unlistedByte := by
  induction m with
  | nil => rfl
  | cons c m ih =>
    obtain ⟨k, v⟩ := c
    by_cases h : k = i
    · simpa [Memory.erase, h] using ih
    · simpa [Memory.erase, Memory.read, h] using ih

theorem Memory.read_erase_other (m : Memory) {i j : Nat} (h : j ≠ i) :
    Memory.read (Memory.erase m i) j = Memory.read m j := by
  induction m with
  | nil => rfl
  | cons c m ih =>
    obtain ⟨k, v⟩ := c
    by_cases hk : k = i
    · have : k ≠ j := fun e => h (e.symm.trans hk)
      simpa [Memory.erase, Memory.read, hk, Ne.symm h] using ih
    · simp only [Memory.erase, hk, if_false, Memory.read, ih]

theorem Memory.read_insert_same (m : Memory) (i : Nat) (v : Byte)
    (h : ∀ c ∈ m, c.1 ≠ i) : Memory.read (Memory.insert m i v) i = v := by
  induction m with
  | nil => simp [Memory.insert, Memory.read]
  | cons c m ih =>
    obtain ⟨k, w⟩ := c
    have hk : k ≠ i := h (k, w) (by simp)
    have ih' := ih (fun c hc => h c (by simp [hc]))
    by_cases hl : i < k <;> simp [Memory.insert, Memory.read, hl, hk, ih']

theorem Memory.read_insert_other (m : Memory) {i j : Nat} (v : Byte) (h : j ≠ i) :
    Memory.read (Memory.insert m i v) j = Memory.read m j := by
  induction m with
  | nil => simp [Memory.insert, Memory.read, Ne.symm h]
  | cons c m ih =>
    obtain ⟨k, w⟩ := c
    by_cases hl : i < k <;> simp [Memory.insert, Memory.read, hl, ih, Ne.symm h]

theorem Memory.erase_keys (m : Memory) (i : Nat) : ∀ c ∈ Memory.erase m i, c.1 ≠ i := by
  induction m with
  | nil => simp [Memory.erase]
  | cons c m ih =>
    obtain ⟨k, v⟩ := c
    by_cases h : k = i
    · simpa [Memory.erase, h] using ih
    · intro c hc
      simp only [Memory.erase, h, if_false, List.mem_cons] at hc
      rcases hc with rfl | hc
      · exact h
      · exact ih c hc

/-- A write is what the next read of its offset gives. -/
@[simp] theorem Memory.read_write_same (m : Memory) (i : Nat) (v : Byte) :
    Memory.read (Memory.write m i v) i = v := by
  unfold Memory.write
  split
  · next h => rw [Memory.read_erase_same, h]
  · exact Memory.read_insert_same _ _ _ (Memory.erase_keys m i)

/-- A write leaves every other offset alone. -/
theorem Memory.read_write_other (m : Memory) {i j : Nat} (v : Byte) (h : j ≠ i) :
    Memory.read (Memory.write m i v) j = Memory.read m j := by
  unfold Memory.write
  split
  · exact Memory.read_erase_other m h
  · rw [Memory.read_insert_other _ v h, Memory.read_erase_other m h]

/-! ## The canonical form -/

theorem Memory.wfFrom_mono {lo lo' : Nat} {m : Memory} (h : lo' ≤ lo)
    (hm : Memory.wfFrom lo m = true) : Memory.wfFrom lo' m = true := by
  cases m with
  | nil => rfl
  | cons c m =>
    obtain ⟨k, v⟩ := c
    simp only [Memory.wfFrom, Bool.and_eq_true, decide_eq_true_eq] at hm ⊢
    exact ⟨⟨h.trans hm.1.1, hm.1.2⟩, hm.2⟩

theorem Memory.wfFrom_erase {lo : Nat} {m : Memory} (i : Nat) (hm : Memory.wfFrom lo m = true) :
    Memory.wfFrom lo (Memory.erase m i) = true := by
  induction m generalizing lo with
  | nil => rfl
  | cons c m ih =>
    obtain ⟨k, v⟩ := c
    simp only [Memory.wfFrom, Bool.and_eq_true, decide_eq_true_eq] at hm
    by_cases h : k = i
    · simp only [Memory.erase, h, if_true]
      exact Memory.wfFrom_mono (by omega) (ih hm.2)
    · simp only [Memory.erase, h, if_false, Memory.wfFrom, Bool.and_eq_true, decide_eq_true_eq]
      exact ⟨hm.1, ih hm.2⟩

theorem Memory.wfFrom_insert {lo : Nat} {m : Memory} {i : Nat} {v : Byte} (hlo : lo ≤ i)
    (hv : v ≠ Config.unlistedByte) (hi : ∀ c ∈ m, c.1 ≠ i) (hm : Memory.wfFrom lo m = true) :
    Memory.wfFrom lo (Memory.insert m i v) = true := by
  induction m generalizing lo with
  | nil => simp [Memory.insert, Memory.wfFrom, hlo, hv]
  | cons c m ih =>
    obtain ⟨k, w⟩ := c
    simp only [Memory.wfFrom, Bool.and_eq_true, decide_eq_true_eq] at hm
    by_cases hl : i < k
    · simp only [Memory.insert, hl, if_true, Memory.wfFrom, Bool.and_eq_true, decide_eq_true_eq]
      exact ⟨⟨hlo, hv⟩, ⟨by omega, hm.1.2⟩, hm.2⟩
    · have hk : k ≠ i := hi (k, w) (by simp)
      simp only [Memory.insert, hl, if_false, Memory.wfFrom, Bool.and_eq_true, decide_eq_true_eq]
      exact ⟨hm.1, ih (by omega) (fun c hc => hi c (by simp [hc])) hm.2⟩

/-- Writing keeps the canonical form. -/
theorem Memory.wf_write {m : Memory} (i : Nat) (v : Byte) (hm : Memory.wf m = true) :
    Memory.wf (Memory.write m i v) = true := by
  unfold Memory.write
  split
  · exact Memory.wfFrom_erase i hm
  · next hv =>
    exact Memory.wfFrom_insert (Nat.zero_le i) hv (Memory.erase_keys m i) (Memory.wfFrom_erase i hm)

/-- A canonical store is the only one with its bytes: two canonical stores that read alike at every
offset are equal. -/
theorem Memory.wf_ext {lo : Nat} {m n : Memory} (hm : Memory.wfFrom lo m = true)
    (hn : Memory.wfFrom lo n = true) (h : ∀ i, Memory.read m i = Memory.read n i) : m = n := by
  have below : ∀ {lo : Nat} {m : Memory} {i : Nat}, Memory.wfFrom lo m = true → i < lo →
      Memory.read m i = Config.unlistedByte := by
    intro lo m i hm hi
    induction m generalizing lo with
    | nil => rfl
    | cons c m ih =>
      obtain ⟨k, v⟩ := c
      simp only [Memory.wfFrom, Bool.and_eq_true, decide_eq_true_eq] at hm
      have hk : k ≠ i := by omega
      simpa [Memory.read, hk] using ih hm.2 (by omega)
  induction m generalizing lo n with
  | nil =>
    cases n with
    | nil => rfl
    | cons c n =>
      obtain ⟨k, v⟩ := c
      simp only [Memory.wfFrom, Bool.and_eq_true, decide_eq_true_eq] at hn
      have := h k
      simp only [Memory.read, if_true] at this
      exact absurd this.symm hn.1.2
  | cons c m ih =>
    obtain ⟨k, v⟩ := c
    simp only [Memory.wfFrom, Bool.and_eq_true, decide_eq_true_eq] at hm
    cases n with
    | nil =>
      have := h k
      simp only [Memory.read, if_true] at this
      exact absurd this hm.1.2
    | cons d n =>
      obtain ⟨l, w⟩ := d
      simp only [Memory.wfFrom, Bool.and_eq_true, decide_eq_true_eq] at hn
      have hkl : k = l := by
        rcases Nat.lt_trichotomy k l with hlt | heq | hgt
        · have h1 := h k
          have h2 := below hn.2 (show k < l + 1 by omega)
          simp only [Memory.read, if_true, show l ≠ k by omega, if_false] at h1
          exact absurd (h1.trans h2) hm.1.2
        · exact heq
        · have h1 := h l
          have h2 := below hm.2 (show l < k + 1 by omega)
          simp only [Memory.read, if_true, show k ≠ l by omega, if_false] at h1
          exact absurd (h1.symm.trans h2) hn.1.2
      subst hkl
      have hvw : v = w := by simpa [Memory.read] using h k
      subst hvw
      congr 1
      refine ih hm.2 hn.2 (fun i => ?_)
      by_cases hik : k = i
      · subst hik
        rw [below hm.2 (Nat.lt_succ_self _), below hn.2 (Nat.lt_succ_self _)]
      · simpa [Memory.read, hik] using h i

/-! ## Offsets inside a window -/

/-- Erasing lists no offset that was not listed. -/
theorem Memory.mem_erase {m : Memory} {i : Nat} {c : Host.Cell} (h : c ∈ Memory.erase m i) : c ∈ m := by
  induction m with
  | nil => simp [Memory.erase] at h
  | cons d m ih =>
    obtain ⟨k, v⟩ := d
    by_cases hk : k = i
    · simp only [Memory.erase, hk, if_true] at h
      exact List.mem_cons_of_mem _ (ih h)
    · simp only [Memory.erase, hk, if_false, List.mem_cons] at h
      rcases h with rfl | h
      · simp
      · exact List.mem_cons_of_mem _ (ih h)

/-- Inserting lists one new offset. -/
theorem Memory.mem_insert {m : Memory} {i : Nat} {v : Byte} {c : Host.Cell}
    (h : c ∈ Memory.insert m i v) : c = (i, v) ∨ c ∈ m := by
  induction m with
  | nil => exact .inl (by simpa [Memory.insert] using h)
  | cons d m ih =>
    obtain ⟨k, w⟩ := d
    by_cases hl : i < k
    · simpa [Memory.insert, hl] using h
    · simp only [Memory.insert, hl, if_false, List.mem_cons] at h
      rcases h with rfl | h
      · simp
      · rcases ih h with h | h
        · exact .inl h
        · exact .inr (List.mem_cons_of_mem _ h)

/-- Writing lists at most the offset written beside the offsets that were listed. -/
theorem Memory.mem_write {m : Memory} {i : Nat} {v : Byte} {c : Host.Cell}
    (h : c ∈ Memory.write m i v) : c.1 = i ∨ c ∈ m := by
  unfold Memory.write at h
  split at h
  · exact .inr (Memory.mem_erase h)
  · rcases Memory.mem_insert h with rfl | h
    · exact .inl rfl
    · exact .inr (Memory.mem_erase h)

/-- Storing at an offset inside the window keeps a device's store in order. -/
theorem Device.storeOk_poke {d : Device} {A : Word} (v : Byte) (hd : d.storeOk = true)
    (hA : d.claims A = true) : (d.poke A v).storeOk = true := by
  simp only [Device.storeOk, Bool.and_eq_true, List.all_eq_true, decide_eq_true_eq] at hd ⊢
  refine ⟨Memory.wf_write _ _ hd.1, fun c hc => ?_⟩
  rcases Memory.mem_write hc with h | h
  · have : d.offset A < d.cfg.windowSize := by simpa [Device.claims] using hA
    rw [h]
    exact this
  · exact hd.2 c h

/-- Accepting a write keeps a device's store in order. -/
theorem Device.storeOk_accept {d : Device} (A : Word) (v : Byte) (hd : d.storeOk = true) :
    (d.accept A v).storeOk = true := by
  unfold Device.accept
  split
  · next h =>
    simp only [Bool.and_eq_true] at h
    exact Device.storeOk_poke v hd h.1
  · exact hd

end Sys2Proof.Machine
end

