-- ==== Sys2Proof/Laws/State.lean ====
section
/-! SUPPORT. One lemma per field per named update of the state, so that no later proof unfolds a
record update. -/

namespace Sys2Proof.Machine

/-! ### `State.busRead` -/

@[simp] theorem State.busRead_pc (s : State) (A : Word) : (s.busRead A).pc = s.pc := rfl
@[simp] theorem State.busRead_stk (s : State) (A : Word) : (s.busRead A).stk = s.stk := rfl
@[simp] theorem State.busRead_adr (s : State) (A : Word) : (s.busRead A).adr = s.adr := rfl
@[simp] theorem State.busRead_a (s : State) (A : Word) : (s.busRead A).a = s.a := rfl
@[simp] theorem State.busRead_b (s : State) (A : Word) : (s.busRead A).b = s.b := rfl
@[simp] theorem State.busRead_x (s : State) (A : Word) : (s.busRead A).x = s.x := rfl
@[simp] theorem State.busRead_y (s : State) (A : Word) : (s.busRead A).y = s.y := rfl
@[simp] theorem State.busRead_opcode (s : State) (A : Word) : (s.busRead A).opcode = s.opcode := rfl
@[simp] theorem State.busRead_state (s : State) (A : Word) : (s.busRead A).state = s.state := rfl
@[simp] theorem State.busRead_fetch (s : State) (A : Word) : (s.busRead A).fetch = s.fetch := rfl
@[simp] theorem State.busRead_halt (s : State) (A : Word) : (s.busRead A).halt = s.halt := rfl
@[simp] theorem State.busRead_bus (s : State) (A : Word) :
    (s.busRead A).bus = { s.bus with address := A, readIntent := true } := rfl
@[simp] theorem State.busRead_devices (s : State) (A : Word) :
    (s.busRead A).devices = s.devices := rfl
@[simp] theorem State.busRead_log (s : State) (A : Word) : (s.busRead A).log = s.log := rfl

/-! ### `State.busWrite` -/

@[simp] theorem State.busWrite_pc (s : State) (A : Word) (v : Byte) :
    (s.busWrite A v).pc = s.pc := rfl
@[simp] theorem State.busWrite_stk (s : State) (A : Word) (v : Byte) :
    (s.busWrite A v).stk = s.stk := rfl
@[simp] theorem State.busWrite_adr (s : State) (A : Word) (v : Byte) :
    (s.busWrite A v).adr = s.adr := rfl
@[simp] theorem State.busWrite_a (s : State) (A : Word) (v : Byte) : (s.busWrite A v).a = s.a := rfl
@[simp] theorem State.busWrite_b (s : State) (A : Word) (v : Byte) : (s.busWrite A v).b = s.b := rfl
@[simp] theorem State.busWrite_x (s : State) (A : Word) (v : Byte) : (s.busWrite A v).x = s.x := rfl
@[simp] theorem State.busWrite_y (s : State) (A : Word) (v : Byte) : (s.busWrite A v).y = s.y := rfl
@[simp] theorem State.busWrite_opcode (s : State) (A : Word) (v : Byte) :
    (s.busWrite A v).opcode = s.opcode := rfl
@[simp] theorem State.busWrite_state (s : State) (A : Word) (v : Byte) :
    (s.busWrite A v).state = s.state := rfl
@[simp] theorem State.busWrite_fetch (s : State) (A : Word) (v : Byte) :
    (s.busWrite A v).fetch = s.fetch := rfl
@[simp] theorem State.busWrite_halt (s : State) (A : Word) (v : Byte) :
    (s.busWrite A v).halt = s.halt := rfl
@[simp] theorem State.busWrite_bus (s : State) (A : Word) (v : Byte) :
    (s.busWrite A v).bus = ⟨A, v, false⟩ := rfl
@[simp] theorem State.busWrite_devices (s : State) (A : Word) (v : Byte) :
    (s.busWrite A v).devices = s.devices := rfl
@[simp] theorem State.busWrite_log (s : State) (A : Word) (v : Byte) :
    (s.busWrite A v).log = s.log := rfl

/-! ### `State.nextByte` -/

@[simp] theorem State.nextByte_pc (s : State) : (s.nextByte).pc = s.pc + 1 := rfl
@[simp] theorem State.nextByte_stk (s : State) : (s.nextByte).stk = s.stk := rfl
@[simp] theorem State.nextByte_adr (s : State) : (s.nextByte).adr = s.adr := rfl
@[simp] theorem State.nextByte_a (s : State) : (s.nextByte).a = s.a := rfl
@[simp] theorem State.nextByte_b (s : State) : (s.nextByte).b = s.b := rfl
@[simp] theorem State.nextByte_x (s : State) : (s.nextByte).x = s.x := rfl
@[simp] theorem State.nextByte_y (s : State) : (s.nextByte).y = s.y := rfl
@[simp] theorem State.nextByte_opcode (s : State) : (s.nextByte).opcode = s.opcode := rfl
@[simp] theorem State.nextByte_state (s : State) : (s.nextByte).state = s.state := rfl
@[simp] theorem State.nextByte_fetch (s : State) : (s.nextByte).fetch = s.fetch := rfl
@[simp] theorem State.nextByte_halt (s : State) : (s.nextByte).halt = s.halt := rfl
@[simp] theorem State.nextByte_bus (s : State) :
    (s.nextByte).bus = { s.bus with address := s.pc + 1, readIntent := true } := rfl
@[simp] theorem State.nextByte_devices (s : State) : (s.nextByte).devices = s.devices := rfl
@[simp] theorem State.nextByte_log (s : State) : (s.nextByte).log = s.log := rfl

/-! ### `State.advance` -/

@[simp] theorem State.advance_pc (s : State) : (s.advance).pc = s.pc + 1 := rfl
@[simp] theorem State.advance_stk (s : State) : (s.advance).stk = s.stk := rfl
@[simp] theorem State.advance_adr (s : State) : (s.advance).adr = s.adr := rfl
@[simp] theorem State.advance_a (s : State) : (s.advance).a = s.a := rfl
@[simp] theorem State.advance_b (s : State) : (s.advance).b = s.b := rfl
@[simp] theorem State.advance_x (s : State) : (s.advance).x = s.x := rfl
@[simp] theorem State.advance_y (s : State) : (s.advance).y = s.y := rfl
@[simp] theorem State.advance_opcode (s : State) : (s.advance).opcode = 0 := rfl
@[simp] theorem State.advance_state (s : State) : (s.advance).state = 0 := rfl
@[simp] theorem State.advance_fetch (s : State) : (s.advance).fetch = true := rfl
@[simp] theorem State.advance_halt (s : State) : (s.advance).halt = s.halt := rfl
@[simp] theorem State.advance_bus (s : State) : (s.advance).bus = s.bus := rfl
@[simp] theorem State.advance_devices (s : State) : (s.advance).devices = s.devices := rfl
@[simp] theorem State.advance_log (s : State) : (s.advance).log = s.log := rfl

/-! ### `State.raise` -/

@[simp] theorem State.raise_pc (s : State) (c : Cause) (D : Byte) : (s.raise c D).pc = s.pc := rfl
@[simp] theorem State.raise_stk (s : State) (c : Cause) (D : Byte) :
    (s.raise c D).stk = s.stk := rfl
@[simp] theorem State.raise_adr (s : State) (c : Cause) (D : Byte) :
    (s.raise c D).adr = s.adr := rfl
@[simp] theorem State.raise_a (s : State) (c : Cause) (D : Byte) : (s.raise c D).a = s.a := rfl
@[simp] theorem State.raise_b (s : State) (c : Cause) (D : Byte) : (s.raise c D).b = s.b := rfl
@[simp] theorem State.raise_x (s : State) (c : Cause) (D : Byte) : (s.raise c D).x = s.x := rfl
@[simp] theorem State.raise_y (s : State) (c : Cause) (D : Byte) : (s.raise c D).y = s.y := rfl
@[simp] theorem State.raise_opcode (s : State) (c : Cause) (D : Byte) :
    (s.raise c D).opcode = s.opcode := rfl
@[simp] theorem State.raise_state (s : State) (c : Cause) (D : Byte) :
    (s.raise c D).state = s.state := rfl
@[simp] theorem State.raise_fetch (s : State) (c : Cause) (D : Byte) :
    (s.raise c D).fetch = s.fetch := rfl
@[simp] theorem State.raise_halt (s : State) (c : Cause) (D : Byte) :
    (s.raise c D).halt = true := rfl
@[simp] theorem State.raise_bus (s : State) (c : Cause) (D : Byte) :
    (s.raise c D).bus = s.bus := rfl
@[simp] theorem State.raise_devices (s : State) (c : Cause) (D : Byte) :
    (s.raise c D).devices = s.devices := rfl
@[simp] theorem State.raise_log (s : State) (c : Cause) (D : Byte) :
    (s.raise c D).log = s.log ++ [⟨c, D, s.pc⟩] := rfl

/-! ### `State.fetchTick` -/

@[simp] theorem State.fetchTick_pc (s : State) : (s.fetchTick).pc = s.pc := rfl
@[simp] theorem State.fetchTick_stk (s : State) : (s.fetchTick).stk = s.stk := rfl
@[simp] theorem State.fetchTick_adr (s : State) : (s.fetchTick).adr = s.adr := rfl
@[simp] theorem State.fetchTick_a (s : State) : (s.fetchTick).a = s.a := rfl
@[simp] theorem State.fetchTick_b (s : State) : (s.fetchTick).b = s.b := rfl
@[simp] theorem State.fetchTick_x (s : State) : (s.fetchTick).x = s.x := rfl
@[simp] theorem State.fetchTick_y (s : State) : (s.fetchTick).y = s.y := rfl
@[simp] theorem State.fetchTick_opcode (s : State) : (s.fetchTick).opcode = 0 := rfl
@[simp] theorem State.fetchTick_state (s : State) : (s.fetchTick).state = 0 := rfl
@[simp] theorem State.fetchTick_fetch (s : State) : (s.fetchTick).fetch = false := rfl
@[simp] theorem State.fetchTick_halt (s : State) : (s.fetchTick).halt = s.halt := rfl
@[simp] theorem State.fetchTick_bus (s : State) :
    (s.fetchTick).bus = { s.bus with address := s.pc, readIntent := true } := rfl
@[simp] theorem State.fetchTick_devices (s : State) : (s.fetchTick).devices = s.devices := rfl
@[simp] theorem State.fetchTick_log (s : State) : (s.fetchTick).log = s.log := rfl

/-! ### `State.atFetch` -/

@[simp] theorem State.atFetch_pc (s : State) : (s.atFetch).pc = s.pc := rfl
@[simp] theorem State.atFetch_stk (s : State) : (s.atFetch).stk = s.stk := rfl
@[simp] theorem State.atFetch_adr (s : State) : (s.atFetch).adr = s.adr := rfl
@[simp] theorem State.atFetch_a (s : State) : (s.atFetch).a = s.a := rfl
@[simp] theorem State.atFetch_b (s : State) : (s.atFetch).b = s.b := rfl
@[simp] theorem State.atFetch_x (s : State) : (s.atFetch).x = s.x := rfl
@[simp] theorem State.atFetch_y (s : State) : (s.atFetch).y = s.y := rfl
@[simp] theorem State.atFetch_opcode (s : State) : (s.atFetch).opcode = 0 := rfl
@[simp] theorem State.atFetch_state (s : State) : (s.atFetch).state = 0 := rfl
@[simp] theorem State.atFetch_fetch (s : State) : (s.atFetch).fetch = true := rfl
@[simp] theorem State.atFetch_halt (s : State) : (s.atFetch).halt = false := rfl
@[simp] theorem State.atFetch_bus (s : State) : (s.atFetch).bus = s.bus := rfl
@[simp] theorem State.atFetch_devices (s : State) : (s.atFetch).devices = s.devices := rfl
@[simp] theorem State.atFetch_log (s : State) : (s.atFetch).log = s.log := rfl

/-! ### `State.storeByte` -/

@[simp] theorem State.storeByte_pc (s : State) (A : Word) (v : Byte) :
    (s.storeByte A v).pc = s.pc := rfl
@[simp] theorem State.storeByte_stk (s : State) (A : Word) (v : Byte) :
    (s.storeByte A v).stk = s.stk := rfl
@[simp] theorem State.storeByte_adr (s : State) (A : Word) (v : Byte) :
    (s.storeByte A v).adr = s.adr := rfl
@[simp] theorem State.storeByte_a (s : State) (A : Word) (v : Byte) :
    (s.storeByte A v).a = s.a := rfl
@[simp] theorem State.storeByte_b (s : State) (A : Word) (v : Byte) :
    (s.storeByte A v).b = s.b := rfl
@[simp] theorem State.storeByte_x (s : State) (A : Word) (v : Byte) :
    (s.storeByte A v).x = s.x := rfl
@[simp] theorem State.storeByte_y (s : State) (A : Word) (v : Byte) :
    (s.storeByte A v).y = s.y := rfl
@[simp] theorem State.storeByte_opcode (s : State) (A : Word) (v : Byte) :
    (s.storeByte A v).opcode = s.opcode := rfl
@[simp] theorem State.storeByte_state (s : State) (A : Word) (v : Byte) :
    (s.storeByte A v).state = s.state := rfl
@[simp] theorem State.storeByte_fetch (s : State) (A : Word) (v : Byte) :
    (s.storeByte A v).fetch = s.fetch := rfl
@[simp] theorem State.storeByte_halt (s : State) (A : Word) (v : Byte) :
    (s.storeByte A v).halt = s.halt := rfl
@[simp] theorem State.storeByte_bus (s : State) (A : Word) (v : Byte) :
    (s.storeByte A v).bus = s.bus := rfl
@[simp] theorem State.storeByte_devices (s : State) (A : Word) (v : Byte) :
    (s.storeByte A v).devices = s.devices.map (fun d => d.accept A v) := rfl
@[simp] theorem State.storeByte_log (s : State) (A : Word) (v : Byte) :
    (s.storeByte A v).log = s.log := rfl

/-! ### `State.pokeByte` -/

@[simp] theorem State.pokeByte_pc (s : State) (A : Word) (v : Byte) :
    (s.pokeByte A v).pc = s.pc := rfl
@[simp] theorem State.pokeByte_stk (s : State) (A : Word) (v : Byte) :
    (s.pokeByte A v).stk = s.stk := rfl
@[simp] theorem State.pokeByte_adr (s : State) (A : Word) (v : Byte) :
    (s.pokeByte A v).adr = s.adr := rfl
@[simp] theorem State.pokeByte_a (s : State) (A : Word) (v : Byte) : (s.pokeByte A v).a = s.a := rfl
@[simp] theorem State.pokeByte_b (s : State) (A : Word) (v : Byte) : (s.pokeByte A v).b = s.b := rfl
@[simp] theorem State.pokeByte_x (s : State) (A : Word) (v : Byte) : (s.pokeByte A v).x = s.x := rfl
@[simp] theorem State.pokeByte_y (s : State) (A : Word) (v : Byte) : (s.pokeByte A v).y = s.y := rfl
@[simp] theorem State.pokeByte_opcode (s : State) (A : Word) (v : Byte) :
    (s.pokeByte A v).opcode = s.opcode := rfl
@[simp] theorem State.pokeByte_state (s : State) (A : Word) (v : Byte) :
    (s.pokeByte A v).state = s.state := rfl
@[simp] theorem State.pokeByte_fetch (s : State) (A : Word) (v : Byte) :
    (s.pokeByte A v).fetch = s.fetch := rfl
@[simp] theorem State.pokeByte_halt (s : State) (A : Word) (v : Byte) :
    (s.pokeByte A v).halt = s.halt := rfl
@[simp] theorem State.pokeByte_bus (s : State) (A : Word) (v : Byte) :
    (s.pokeByte A v).bus = s.bus := rfl
@[simp] theorem State.pokeByte_devices (s : State) (A : Word) (v : Byte) :
    (s.pokeByte A v).devices = s.devices.map (fun d => if d.claims A then d.poke A v else d) := rfl
@[simp] theorem State.pokeByte_log (s : State) (A : Word) (v : Byte) :
    (s.pokeByte A v).log = s.log := rfl

/-! ### `State.jumpToAdr` -/

@[simp] theorem State.jumpToAdr_pc (s : State) : (s.jumpToAdr).pc = s.adr - 1 + 1 := rfl
@[simp] theorem State.jumpToAdr_stk (s : State) : (s.jumpToAdr).stk = s.stk := rfl
@[simp] theorem State.jumpToAdr_adr (s : State) : (s.jumpToAdr).adr = s.adr := rfl
@[simp] theorem State.jumpToAdr_a (s : State) : (s.jumpToAdr).a = s.a := rfl
@[simp] theorem State.jumpToAdr_b (s : State) : (s.jumpToAdr).b = s.b := rfl
@[simp] theorem State.jumpToAdr_x (s : State) : (s.jumpToAdr).x = s.x := rfl
@[simp] theorem State.jumpToAdr_y (s : State) : (s.jumpToAdr).y = s.y := rfl
@[simp] theorem State.jumpToAdr_opcode (s : State) : (s.jumpToAdr).opcode = 0 := rfl
@[simp] theorem State.jumpToAdr_state (s : State) : (s.jumpToAdr).state = 0 := rfl
@[simp] theorem State.jumpToAdr_fetch (s : State) : (s.jumpToAdr).fetch = true := rfl
@[simp] theorem State.jumpToAdr_halt (s : State) : (s.jumpToAdr).halt = s.halt := rfl
@[simp] theorem State.jumpToAdr_bus (s : State) : (s.jumpToAdr).bus = s.bus := rfl
@[simp] theorem State.jumpToAdr_devices (s : State) : (s.jumpToAdr).devices = s.devices := rfl
@[simp] theorem State.jumpToAdr_log (s : State) : (s.jumpToAdr).log = s.log := rfl

/-! ### `State.pushByte` -/

@[simp] theorem State.pushByte_pc (s : State) (v : Byte) : (s.pushByte v).pc = s.pc := rfl
@[simp] theorem State.pushByte_stk (s : State) (v : Byte) : (s.pushByte v).stk = s.stk - 1 := rfl
@[simp] theorem State.pushByte_adr (s : State) (v : Byte) : (s.pushByte v).adr = s.adr := rfl
@[simp] theorem State.pushByte_a (s : State) (v : Byte) : (s.pushByte v).a = s.a := rfl
@[simp] theorem State.pushByte_b (s : State) (v : Byte) : (s.pushByte v).b = s.b := rfl
@[simp] theorem State.pushByte_x (s : State) (v : Byte) : (s.pushByte v).x = s.x := rfl
@[simp] theorem State.pushByte_y (s : State) (v : Byte) : (s.pushByte v).y = s.y := rfl
@[simp] theorem State.pushByte_opcode (s : State) (v : Byte) :
    (s.pushByte v).opcode = s.opcode := rfl
@[simp] theorem State.pushByte_state (s : State) (v : Byte) : (s.pushByte v).state = s.state := rfl
@[simp] theorem State.pushByte_fetch (s : State) (v : Byte) : (s.pushByte v).fetch = s.fetch := rfl
@[simp] theorem State.pushByte_halt (s : State) (v : Byte) : (s.pushByte v).halt = s.halt := rfl
@[simp] theorem State.pushByte_bus (s : State) (v : Byte) :
    (s.pushByte v).bus = ⟨s.stk, v, false⟩ := rfl
@[simp] theorem State.pushByte_devices (s : State) (v : Byte) :
    (s.pushByte v).devices = s.devices := rfl
@[simp] theorem State.pushByte_log (s : State) (v : Byte) : (s.pushByte v).log = s.log := rfl

/-! ### `State.popRequest` -/

@[simp] theorem State.popRequest_pc (s : State) : (s.popRequest).pc = s.pc := rfl
@[simp] theorem State.popRequest_stk (s : State) : (s.popRequest).stk = s.stk + 1 := rfl
@[simp] theorem State.popRequest_adr (s : State) : (s.popRequest).adr = s.adr := rfl
@[simp] theorem State.popRequest_a (s : State) : (s.popRequest).a = s.a := rfl
@[simp] theorem State.popRequest_b (s : State) : (s.popRequest).b = s.b := rfl
@[simp] theorem State.popRequest_x (s : State) : (s.popRequest).x = s.x := rfl
@[simp] theorem State.popRequest_y (s : State) : (s.popRequest).y = s.y := rfl
@[simp] theorem State.popRequest_opcode (s : State) : (s.popRequest).opcode = s.opcode := rfl
@[simp] theorem State.popRequest_state (s : State) : (s.popRequest).state = s.state := rfl
@[simp] theorem State.popRequest_fetch (s : State) : (s.popRequest).fetch = s.fetch := rfl
@[simp] theorem State.popRequest_halt (s : State) : (s.popRequest).halt = s.halt := rfl
@[simp] theorem State.popRequest_bus (s : State) :
    (s.popRequest).bus = { s.bus with address := s.stk + 1, readIntent := true } := rfl
@[simp] theorem State.popRequest_devices (s : State) : (s.popRequest).devices = s.devices := rfl
@[simp] theorem State.popRequest_log (s : State) : (s.popRequest).log = s.log := rfl

/-! ### `State.tickDevices` -/

@[simp] theorem State.tickDevices_pc (s : State) : s.tickDevices.pc = s.pc := rfl
@[simp] theorem State.tickDevices_stk (s : State) : s.tickDevices.stk = s.stk := rfl
@[simp] theorem State.tickDevices_adr (s : State) : s.tickDevices.adr = s.adr := rfl
@[simp] theorem State.tickDevices_a (s : State) : s.tickDevices.a = s.a := rfl
@[simp] theorem State.tickDevices_b (s : State) : s.tickDevices.b = s.b := rfl
@[simp] theorem State.tickDevices_x (s : State) : s.tickDevices.x = s.x := rfl
@[simp] theorem State.tickDevices_y (s : State) : s.tickDevices.y = s.y := rfl
@[simp] theorem State.tickDevices_opcode (s : State) : s.tickDevices.opcode = s.opcode := rfl
@[simp] theorem State.tickDevices_state (s : State) : s.tickDevices.state = s.state := rfl
@[simp] theorem State.tickDevices_fetch (s : State) : s.tickDevices.fetch = s.fetch := rfl
@[simp] theorem State.tickDevices_halt (s : State) : s.tickDevices.halt = s.halt := rfl
@[simp] theorem State.tickDevices_log (s : State) : s.tickDevices.log = s.log := rfl

/-! ### `State.set` -/

@[simp] theorem State.set_opcode (s : State) (r : Reg) (v : Word) : (s.set r v).opcode = s.opcode := by
  cases r <;> rfl
@[simp] theorem State.set_state (s : State) (r : Reg) (v : Word) : (s.set r v).state = s.state := by
  cases r <;> rfl
@[simp] theorem State.set_fetch (s : State) (r : Reg) (v : Word) : (s.set r v).fetch = s.fetch := by
  cases r <;> rfl
@[simp] theorem State.set_halt (s : State) (r : Reg) (v : Word) : (s.set r v).halt = s.halt := by
  cases r <;> rfl
@[simp] theorem State.set_bus (s : State) (r : Reg) (v : Word) : (s.set r v).bus = s.bus := by
  cases r <;> rfl
@[simp] theorem State.set_devices (s : State) (r : Reg) (v : Word) : (s.set r v).devices = s.devices := by
  cases r <;> rfl
@[simp] theorem State.set_log (s : State) (r : Reg) (v : Word) : (s.set r v).log = s.log := by
  cases r <;> rfl

@[simp] theorem State.set_pc_pc (s : State) (v : Word) : (s.set .pc v).pc = v := rfl
@[simp] theorem State.set_pc_stk (s : State) (v : Word) : (s.set .pc v).stk = s.stk := rfl
@[simp] theorem State.set_pc_adr (s : State) (v : Word) : (s.set .pc v).adr = s.adr := rfl
@[simp] theorem State.set_pc_a (s : State) (v : Word) : (s.set .pc v).a = s.a := rfl
@[simp] theorem State.set_pc_b (s : State) (v : Word) : (s.set .pc v).b = s.b := rfl
@[simp] theorem State.set_pc_x (s : State) (v : Word) : (s.set .pc v).x = s.x := rfl
@[simp] theorem State.set_pc_y (s : State) (v : Word) : (s.set .pc v).y = s.y := rfl
@[simp] theorem State.set_stk_pc (s : State) (v : Word) : (s.set .stk v).pc = s.pc := rfl
@[simp] theorem State.set_stk_stk (s : State) (v : Word) : (s.set .stk v).stk = v := rfl
@[simp] theorem State.set_stk_adr (s : State) (v : Word) : (s.set .stk v).adr = s.adr := rfl
@[simp] theorem State.set_stk_a (s : State) (v : Word) : (s.set .stk v).a = s.a := rfl
@[simp] theorem State.set_stk_b (s : State) (v : Word) : (s.set .stk v).b = s.b := rfl
@[simp] theorem State.set_stk_x (s : State) (v : Word) : (s.set .stk v).x = s.x := rfl
@[simp] theorem State.set_stk_y (s : State) (v : Word) : (s.set .stk v).y = s.y := rfl
@[simp] theorem State.set_adr_pc (s : State) (v : Word) : (s.set .adr v).pc = s.pc := rfl
@[simp] theorem State.set_adr_stk (s : State) (v : Word) : (s.set .adr v).stk = s.stk := rfl
@[simp] theorem State.set_adr_adr (s : State) (v : Word) : (s.set .adr v).adr = v := rfl
@[simp] theorem State.set_adr_a (s : State) (v : Word) : (s.set .adr v).a = s.a := rfl
@[simp] theorem State.set_adr_b (s : State) (v : Word) : (s.set .adr v).b = s.b := rfl
@[simp] theorem State.set_adr_x (s : State) (v : Word) : (s.set .adr v).x = s.x := rfl
@[simp] theorem State.set_adr_y (s : State) (v : Word) : (s.set .adr v).y = s.y := rfl
@[simp] theorem State.set_a_pc (s : State) (v : Word) : (s.set .a v).pc = s.pc := rfl
@[simp] theorem State.set_a_stk (s : State) (v : Word) : (s.set .a v).stk = s.stk := rfl
@[simp] theorem State.set_a_adr (s : State) (v : Word) : (s.set .a v).adr = s.adr := rfl
@[simp] theorem State.set_a_a (s : State) (v : Word) : (s.set .a v).a = v := rfl
@[simp] theorem State.set_a_b (s : State) (v : Word) : (s.set .a v).b = s.b := rfl
@[simp] theorem State.set_a_x (s : State) (v : Word) : (s.set .a v).x = s.x := rfl
@[simp] theorem State.set_a_y (s : State) (v : Word) : (s.set .a v).y = s.y := rfl
@[simp] theorem State.set_b_pc (s : State) (v : Word) : (s.set .b v).pc = s.pc := rfl
@[simp] theorem State.set_b_stk (s : State) (v : Word) : (s.set .b v).stk = s.stk := rfl
@[simp] theorem State.set_b_adr (s : State) (v : Word) : (s.set .b v).adr = s.adr := rfl
@[simp] theorem State.set_b_a (s : State) (v : Word) : (s.set .b v).a = s.a := rfl
@[simp] theorem State.set_b_b (s : State) (v : Word) : (s.set .b v).b = v := rfl
@[simp] theorem State.set_b_x (s : State) (v : Word) : (s.set .b v).x = s.x := rfl
@[simp] theorem State.set_b_y (s : State) (v : Word) : (s.set .b v).y = s.y := rfl
@[simp] theorem State.set_x_pc (s : State) (v : Word) : (s.set .x v).pc = s.pc := rfl
@[simp] theorem State.set_x_stk (s : State) (v : Word) : (s.set .x v).stk = s.stk := rfl
@[simp] theorem State.set_x_adr (s : State) (v : Word) : (s.set .x v).adr = s.adr := rfl
@[simp] theorem State.set_x_a (s : State) (v : Word) : (s.set .x v).a = s.a := rfl
@[simp] theorem State.set_x_b (s : State) (v : Word) : (s.set .x v).b = s.b := rfl
@[simp] theorem State.set_x_x (s : State) (v : Word) : (s.set .x v).x = v := rfl
@[simp] theorem State.set_x_y (s : State) (v : Word) : (s.set .x v).y = s.y := rfl
@[simp] theorem State.set_y_pc (s : State) (v : Word) : (s.set .y v).pc = s.pc := rfl
@[simp] theorem State.set_y_stk (s : State) (v : Word) : (s.set .y v).stk = s.stk := rfl
@[simp] theorem State.set_y_adr (s : State) (v : Word) : (s.set .y v).adr = s.adr := rfl
@[simp] theorem State.set_y_a (s : State) (v : Word) : (s.set .y v).a = s.a := rfl
@[simp] theorem State.set_y_b (s : State) (v : Word) : (s.set .y v).b = s.b := rfl
@[simp] theorem State.set_y_x (s : State) (v : Word) : (s.set .y v).x = s.x := rfl
@[simp] theorem State.set_y_y (s : State) (v : Word) : (s.set .y v).y = v := rfl

/-- Reading the register just written. -/
@[simp] theorem State.get_set_same (s : State) (r : Reg) (v : Word) : (s.set r v).get r = v := by
  cases r <;> rfl

/-- Reading another register than the one written. -/
theorem State.get_set_other (s : State) {r r' : Reg} (v : Word) (h : r' ≠ r) :
    (s.set r v).get r' = s.get r' := by
  cases r <;> cases r' <;> first | rfl | exact absurd rfl h

@[simp] theorem State.get_pc (s : State) : s.get .pc = s.pc := rfl
@[simp] theorem State.get_stk (s : State) : s.get .stk = s.stk := rfl
@[simp] theorem State.get_adr (s : State) : s.get .adr = s.adr := rfl
@[simp] theorem State.get_a (s : State) : s.get .a = s.a := rfl
@[simp] theorem State.get_b (s : State) : s.get .b = s.b := rfl
@[simp] theorem State.get_x (s : State) : s.get .x = s.x := rfl
@[simp] theorem State.get_y (s : State) : s.get .y = s.y := rfl

/-! ### `State.setHalf` -/

@[simp] theorem State.setHalf_opcode (s : State) (h : Half) (v : Byte) : (s.setHalf h v).opcode = s.opcode := by
  simp [State.setHalf]
@[simp] theorem State.setHalf_state (s : State) (h : Half) (v : Byte) : (s.setHalf h v).state = s.state := by
  simp [State.setHalf]
@[simp] theorem State.setHalf_fetch (s : State) (h : Half) (v : Byte) : (s.setHalf h v).fetch = s.fetch := by
  simp [State.setHalf]
@[simp] theorem State.setHalf_halt (s : State) (h : Half) (v : Byte) : (s.setHalf h v).halt = s.halt := by
  simp [State.setHalf]
@[simp] theorem State.setHalf_bus (s : State) (h : Half) (v : Byte) : (s.setHalf h v).bus = s.bus := by
  simp [State.setHalf]
@[simp] theorem State.setHalf_devices (s : State) (h : Half) (v : Byte) : (s.setHalf h v).devices = s.devices := by
  simp [State.setHalf]
@[simp] theorem State.setHalf_log (s : State) (h : Half) (v : Byte) : (s.setHalf h v).log = s.log := by
  simp [State.setHalf]

/-- Writing a half writes its register, and the other half keeps its value. -/
theorem State.get_setHalf_same (s : State) (h : Half) (v : Byte) :
    (s.setHalf h v).get h.reg = withPart h.part (s.get h.reg) v := by
  simp [State.setHalf]

/-- Writing a half leaves the other registers alone. -/
theorem State.get_setHalf_other (s : State) {h : Half} {r : Reg} (v : Byte) (hr : r ≠ h.reg) :
    (s.setHalf h v).get r = s.get r :=
  State.get_set_other s _ hr

/-! ### `State.latchOpcode` and `State.countCycle` -/

/-- An unset opcode takes the byte on the bus. -/
theorem State.latchOpcode_unset {s : State} (D : Byte) (h : s.opcode = 0) :
    s.latchOpcode D = { s with opcode := D } :=
  if_pos h

/-- An opcode in flight is kept. -/
theorem State.latchOpcode_set {s : State} (D : Byte) (h : s.opcode ≠ 0) : s.latchOpcode D = s :=
  if_neg h

/-- A completed instruction is not counted. -/
theorem State.countCycle_unset {s : State} (h : s.opcode = 0) : s.countCycle = s :=
  if_pos h

/-- An instruction in flight moves to its next cycle. -/
theorem State.countCycle_set {s : State} (h : s.opcode ≠ 0) :
    s.countCycle = { s with state := s.state + 1 } :=
  if_neg h

@[simp] theorem State.latchOpcode_pc (s : State) (D : Byte) : (s.latchOpcode D).pc = s.pc := by
  unfold State.latchOpcode; split <;> rfl
@[simp] theorem State.latchOpcode_stk (s : State) (D : Byte) : (s.latchOpcode D).stk = s.stk := by
  unfold State.latchOpcode; split <;> rfl
@[simp] theorem State.latchOpcode_adr (s : State) (D : Byte) : (s.latchOpcode D).adr = s.adr := by
  unfold State.latchOpcode; split <;> rfl
@[simp] theorem State.latchOpcode_a (s : State) (D : Byte) : (s.latchOpcode D).a = s.a := by
  unfold State.latchOpcode; split <;> rfl
@[simp] theorem State.latchOpcode_b (s : State) (D : Byte) : (s.latchOpcode D).b = s.b := by
  unfold State.latchOpcode; split <;> rfl
@[simp] theorem State.latchOpcode_x (s : State) (D : Byte) : (s.latchOpcode D).x = s.x := by
  unfold State.latchOpcode; split <;> rfl
@[simp] theorem State.latchOpcode_y (s : State) (D : Byte) : (s.latchOpcode D).y = s.y := by
  unfold State.latchOpcode; split <;> rfl
@[simp] theorem State.latchOpcode_state (s : State) (D : Byte) : (s.latchOpcode D).state = s.state := by
  unfold State.latchOpcode; split <;> rfl
@[simp] theorem State.latchOpcode_fetch (s : State) (D : Byte) : (s.latchOpcode D).fetch = s.fetch := by
  unfold State.latchOpcode; split <;> rfl
@[simp] theorem State.latchOpcode_halt (s : State) (D : Byte) : (s.latchOpcode D).halt = s.halt := by
  unfold State.latchOpcode; split <;> rfl
@[simp] theorem State.latchOpcode_bus (s : State) (D : Byte) : (s.latchOpcode D).bus = s.bus := by
  unfold State.latchOpcode; split <;> rfl
@[simp] theorem State.latchOpcode_devices (s : State) (D : Byte) : (s.latchOpcode D).devices = s.devices := by
  unfold State.latchOpcode; split <;> rfl
@[simp] theorem State.latchOpcode_log (s : State) (D : Byte) : (s.latchOpcode D).log = s.log := by
  unfold State.latchOpcode; split <;> rfl

@[simp] theorem State.countCycle_pc (s : State) : s.countCycle.pc = s.pc := by
  unfold State.countCycle; split <;> rfl
@[simp] theorem State.countCycle_stk (s : State) : s.countCycle.stk = s.stk := by
  unfold State.countCycle; split <;> rfl
@[simp] theorem State.countCycle_adr (s : State) : s.countCycle.adr = s.adr := by
  unfold State.countCycle; split <;> rfl
@[simp] theorem State.countCycle_a (s : State) : s.countCycle.a = s.a := by
  unfold State.countCycle; split <;> rfl
@[simp] theorem State.countCycle_b (s : State) : s.countCycle.b = s.b := by
  unfold State.countCycle; split <;> rfl
@[simp] theorem State.countCycle_x (s : State) : s.countCycle.x = s.x := by
  unfold State.countCycle; split <;> rfl
@[simp] theorem State.countCycle_y (s : State) : s.countCycle.y = s.y := by
  unfold State.countCycle; split <;> rfl
@[simp] theorem State.countCycle_opcode (s : State) : s.countCycle.opcode = s.opcode := by
  unfold State.countCycle; split <;> rfl
@[simp] theorem State.countCycle_fetch (s : State) : s.countCycle.fetch = s.fetch := by
  unfold State.countCycle; split <;> rfl
@[simp] theorem State.countCycle_halt (s : State) : s.countCycle.halt = s.halt := by
  unfold State.countCycle; split <;> rfl
@[simp] theorem State.countCycle_bus (s : State) : s.countCycle.bus = s.bus := by
  unfold State.countCycle; split <;> rfl
@[simp] theorem State.countCycle_devices (s : State) : s.countCycle.devices = s.devices := by
  unfold State.countCycle; split <;> rfl
@[simp] theorem State.countCycle_log (s : State) : s.countCycle.log = s.log := by
  unfold State.countCycle; split <;> rfl

end Sys2Proof.Machine
end

