-- ==== Sys2Proof/Laws/Device.lean ====
section
/-! SUPPORT. What the device part of an edge does: a read leaves the stores alone and puts the
answering byte on the bus, a write leaves the bus alone and stores the byte; what each address then
reads as. -/

namespace Sys2Proof.Machine

/-! ## One device -/

@[simp] theorem Device.poke_cfg (d : Device) (A : Word) (v : Byte) : (d.poke A v).cfg = d.cfg := rfl

@[simp] theorem Device.accept_cfg (d : Device) (A : Word) (v : Byte) :
    (d.accept A v).cfg = d.cfg := by
  unfold Device.accept; split <;> rfl

theorem Device.claims_congr {d e : Device} (h : d.cfg = e.cfg) (A : Word) :
    d.claims A = e.claims A := by
  unfold Device.claims Device.offset
  rw [h]

@[simp] theorem Device.claims_accept (d : Device) (A B : Word) (v : Byte) :
    (d.accept A v).claims B = d.claims B :=
  Device.claims_congr (Device.accept_cfg d A v) B

@[simp] theorem Device.claims_poke (d : Device) (A B : Word) (v : Byte) :
    (d.poke A v).claims B = d.claims B :=
  Device.claims_congr (Device.poke_cfg d A v) B

/-- Distinct addresses have distinct offsets. -/
theorem Device.offset_ne {d : Device} {A B : Word} (h : B ≠ A) :
    (d.offset B).toNat ≠ (d.offset A).toNat := by
  unfold Device.offset
  intro e
  exact h (by bv_omega)

@[simp] theorem Device.load_poke_same (d : Device) (A : Word) (v : Byte) : (d.poke A v).load A = v := by
  simp [Device.load, Device.poke, Device.offset]

theorem Device.load_poke_other (d : Device) {A B : Word} (v : Byte) (h : B ≠ A) :
    (d.poke A v).load B = d.load B :=
  Memory.read_write_other d.store v (Device.offset_ne (d := d) h)

/-- A write to one address leaves the byte at every other address alone. -/
theorem Device.load_accept_other (d : Device) {A B : Word} (v : Byte) (h : B ≠ A) :
    (d.accept A v).load B = d.load B := by
  unfold Device.accept
  split
  · exact Device.load_poke_other d v h
  · rfl

/-- What a claiming device holds after a write: the byte if it is writable, else what it held. -/
theorem Device.load_accept_same {d : Device} {A : Word} (v : Byte) (h : d.claims A = true) :
    (d.accept A v).load A = if d.cfg.writable then v else d.load A := by
  by_cases hw : d.cfg.writable = true <;> simp [Device.accept, h, hw]

/-! ## The devices of an edge -/

/-- A read leaves every store alone and puts the answering byte on `bus.data` (20_memory.md rules
R78, R85). -/
theorem tickDevices_read (ds : List Device) (A : Word) (D : Byte) :
    Machine.tickDevices ds ⟨A, D, true⟩
      = (ds, ⟨A, ((claimer ds A).map (fun d => d.load A)).getD D, true⟩) := by
  induction ds generalizing D with
  | nil => rfl
  | cons d ds ih =>
    simp only [Machine.tickDevices, Device.tick, claimer]
    by_cases hc : d.claims A = true
    · simp only [hc, if_true, ih]
      cases claimer ds A <;> rfl
    · simp only [Bool.not_eq_true] at hc
      simp only [hc, if_false, ih, Bool.false_eq_true]
      cases claimer ds A <;> rfl

/-- A write leaves the bus alone and gives the byte to every device (20_memory.md rules R78,
R101). -/
theorem tickDevices_write (ds : List Device) (A : Word) (v : Byte) :
    Machine.tickDevices ds ⟨A, v, false⟩ = (ds.map (fun d => d.accept A v), ⟨A, v, false⟩) := by
  induction ds with
  | nil => rfl
  | cons d ds ih =>
    simp only [Machine.tickDevices, Device.tick, List.map_cons]
    by_cases hc : d.claims A = true
    · simp [hc, ih]
    · simp only [Bool.not_eq_true] at hc
      simp [hc, ih, Device.accept]

/-- The device part of an edge whose bus holds a read. -/
theorem State.tickDevices_of_read {s : State} (h : s.bus.readIntent = true) :
    s.tickDevices = { s with bus := ⟨s.bus.address, s.answer s.bus.address s.bus.data, true⟩ } := by
  have e : s.bus = ⟨s.bus.address, s.bus.data, true⟩ := by rw [← h]
  unfold State.tickDevices
  rw [e, tickDevices_read]
  rfl

/-- The device part of an edge whose bus holds a write. -/
theorem State.tickDevices_of_write {s : State} (h : s.bus.readIntent = false) :
    s.tickDevices = s.storeByte s.bus.address s.bus.data := by
  have e : s.bus = ⟨s.bus.address, s.bus.data, false⟩ := by rw [← h]
  unfold State.tickDevices State.storeByte
  rw [e, tickDevices_write]

/-! ## What an address reads as -/

/-- The answering byte depends on the devices alone. -/
theorem State.memRead_congr {s t : State} (h : t.devices = s.devices) (A : Word) :
    t.memRead A = s.memRead A := by
  simp [State.memRead, h]

theorem State.answer_congr {s t : State} (h : t.devices = s.devices) (A : Word) (D : Byte) :
    t.answer A D = s.answer A D := by
  simp [State.answer, State.memRead, h]

/-- A read that is answered again gives the same byte (20_memory.md rule R83). -/
@[simp] theorem State.answer_answer (s : State) (A : Word) (D : Byte) :
    s.answer A (s.answer A D) = s.answer A D := by
  unfold State.answer
  cases s.memRead A <;> rfl

/-- A claimed address answers with its byte whatever the latch held. -/
theorem State.answer_claimed {s : State} {A : Word} {v : Byte} (D : Byte) (h : s.memRead A = some v) :
    s.answer A D = v := by
  simp [State.answer, h]

/-- An unclaimed address leaves the latch as it was (20_memory.md rule R85). -/
theorem State.answer_unclaimed {s : State} {A : Word} (D : Byte) (h : s.memRead A = none) :
    s.answer A D = D := by
  simp [State.answer, h]

theorem claimer_accept (ds : List Device) (A B : Word) (v : Byte) :
    claimer (ds.map (fun d => d.accept A v)) B = (claimer ds B).map (fun d => d.accept A v) := by
  induction ds with
  | nil => rfl
  | cons d ds ih =>
    simp only [List.map_cons, claimer, ih]
    cases claimer ds B with
    | some e => rfl
    | none => by_cases hc : d.claims B = true <;> simp [hc]

theorem claimer_claims {ds : List Device} {A : Word} {d : Device} (h : claimer ds A = some d) :
    d.claims A = true := by
  induction ds with
  | nil => simp [claimer] at h
  | cons e ds ih =>
    simp only [claimer] at h
    cases hc : claimer ds A with
    | some f => exact ih (by rw [hc] at h ⊢; exact h)
    | none =>
      rw [hc] at h
      by_cases he : e.claims A = true
      · simp only [he, if_true, Option.some.injEq] at h
        exact h ▸ he
      · simp [he] at h

theorem claimer_mem {ds : List Device} {A : Word} {d : Device} (h : claimer ds A = some d) :
    d ∈ ds := by
  induction ds with
  | nil => simp [claimer] at h
  | cons e ds ih =>
    simp only [claimer] at h
    cases hc : claimer ds A with
    | some f => exact List.mem_cons_of_mem _ (ih (by rw [hc] at h ⊢; exact h))
    | none =>
      rw [hc] at h
      by_cases he : e.claims A = true
      · simp only [he, if_true, Option.some.injEq] at h
        simp [h]
      · simp [he] at h

/-- A write leaves every other address as it was. -/
theorem State.memRead_storeByte_other (s : State) {A B : Word} (v : Byte) (h : B ≠ A) :
    (s.storeByte A v).memRead B = s.memRead B := by
  simp only [State.memRead, State.storeByte, claimer_accept, Option.map_map]
  congr 1
  funext d
  exact Device.load_accept_other d v h

/-- What an address reads as after a write to it: the byte where the write is kept, else what it
read as before (20_memory.md rules R85, R101). -/
theorem State.memRead_storeByte_same (s : State) (A : Word) (v : Byte) :
    (s.storeByte A v).memRead A = if s.writableAt A then some v else s.memRead A := by
  rcases hc : claimer s.devices A with _ | d
  · simp [State.memRead, State.storeByte, State.writableAt, claimer_accept, hc]
  · by_cases hw : d.cfg.writable = true <;>
      simp [State.memRead, State.storeByte, State.writableAt, claimer_accept, hc, hw,
        Device.load_accept_same v (claimer_claims hc)]

/-- A write changes no device's parameters. -/
@[simp] theorem State.storeByte_cfgs (s : State) (A : Word) (v : Byte) :
    (s.storeByte A v).devices.map (fun d => d.cfg) = s.devices.map (fun d => d.cfg) := by
  simp [State.storeByte, Function.comp_def]

/-- A write moves no window, so the same addresses are writable after it. -/
@[simp] theorem State.writableAt_storeByte (s : State) (A B : Word) (v : Byte) :
    (s.storeByte A v).writableAt B = s.writableAt B := by
  simp only [State.writableAt, State.storeByte, claimer_accept]
  cases claimer s.devices B <;> simp

/-- The device part of an edge changes no device's parameters. -/
@[simp] theorem State.tickDevices_cfgs (s : State) :
    s.tickDevices.devices.map (fun d => d.cfg) = s.devices.map (fun d => d.cfg) := by
  cases h : s.bus.readIntent with
  | true => rw [State.tickDevices_of_read h]
  | false => rw [State.tickDevices_of_write h, State.storeByte_cfgs]

/-- The device part of an edge keeps the platform as it is. -/
@[simp] theorem State.tickDevices_platformOk (s : State) :
    s.tickDevices.platformOk = s.platformOk := by
  simp [State.platformOk]

/-- A write keeps the stores in order. -/
theorem State.storesOk_storeByte {s : State} (A : Word) (v : Byte) (h : s.StoresOk) :
    (s.storeByte A v).StoresOk := by
  intro d hd
  simp only [State.storeByte_devices, List.mem_map] at hd
  obtain ⟨e, he, rfl⟩ := hd
  exact Device.storeOk_accept A v (h e he)

/-- The device part of an edge keeps the stores in order. -/
theorem State.storesOk_tickDevices {s : State} (h : s.StoresOk) : s.tickDevices.StoresOk := by
  cases hr : s.bus.readIntent with
  | true => rw [State.tickDevices_of_read hr]; exact h
  | false => rw [State.tickDevices_of_write hr]; exact State.storesOk_storeByte _ _ h

/-- After the device part of an edge that holds a read, the bus is settled: answering again changes
nothing. -/
theorem State.tickDevices_settled {s : State} (h : s.bus.readIntent = true) :
    s.tickDevices.answer s.bus.address s.tickDevices.bus.data = s.tickDevices.bus.data := by
  rw [State.tickDevices_of_read h]
  exact State.answer_answer s _ _

/-! ## Placing bytes from outside -/

theorem claimer_poke (ds : List Device) (A B : Word) (v : Byte) :
    claimer (ds.map (fun d => if d.claims A then d.poke A v else d)) B
      = (claimer ds B).map (fun d => if d.claims A then d.poke A v else d) := by
  induction ds with
  | nil => rfl
  | cons d ds ih =>
    simp only [List.map_cons, claimer, ih]
    cases claimer ds B with
    | some e => rfl
    | none =>
      by_cases ha : d.claims A = true <;> by_cases hb : d.claims B = true <;> simp [ha, hb]

/-- A byte placed at a claimed address is what the address reads as. -/
theorem State.memRead_pokeByte_same (s : State) (A : Word) (v : Byte) :
    (s.pokeByte A v).memRead A = (s.memRead A).map (fun _ => v) := by
  simp only [State.memRead, State.pokeByte, claimer_poke, Option.map_map]
  cases hc : claimer s.devices A with
  | none => rfl
  | some d => simp [claimer_claims hc]

/-- A byte placed at one address leaves every other address as it was. -/
theorem State.memRead_pokeByte_other (s : State) {A B : Word} (v : Byte) (h : B ≠ A) :
    (s.pokeByte A v).memRead B = s.memRead B := by
  simp only [State.memRead, State.pokeByte, claimer_poke, Option.map_map]
  congr 1
  funext d
  by_cases ha : d.claims A = true <;> simp [ha, Device.load_poke_other _ v h]

end Sys2Proof.Machine
end

