-- ==== Sys2Proof/Laws/PerInstr.lean ====
section
/-! SUPPORT. Statements about every instruction as syntax, one lemma per constructor. -/

namespace Sys2Proof.Laws

/-- The length in bytes that 30_encoding.md rule R122 gives the instruction's family. -/
def FormatLength.bytes : Instr → Nat
  | .halt | .lxal | .lxah | .lxbl | .lxbh | .lxxl | .lxxh | .lxyl | .lxyh | .lyal | .lyah
  | .lybl | .lybh | .lyxl | .lyxh | .lyyl | .lyyh | .pushal | .pushah | .pushbl | .pushbh
  | .pushxl | .pushxh | .pushyl | .pushyh | .popal | .popah | .popbl | .popbh | .popxl | .popxh
  | .popyl | .popyh | .add | .sub | .mul | .div | .incx | .decx | .incy | .decy | .ret | .tab
  | .tax | .tay | .tba | .tbx | .tby | .txa | .txb | .txy | .tya | .tyb | .tyx => 1
  | .jmpr _ | .jeqr _ | .jgtr _ | .jltr _ => 2
  | .setstk _ | .seta _ | .setb _ | .setx _ | .sety _ | .ldal _ | .ldah _ | .ldbl _ | .ldbh _
  | .ldxl _ | .ldxh _ | .ldyl _ | .ldyh _ | .stal _ | .stah _ | .stbl _ | .stbh _ | .stxl _
  | .stxh _ | .styl _ | .styh _ | .jmp _ | .jeq _ | .jgt _ | .jlt _ | .call _ => 3

/-- The encoding has the length of its format, its first byte selects a row of the opcode map, and that
byte is not 0x00 (30_encoding.md rules R122, R127 and R131). -/
def FormatLength.Statement (i : Instr) : Prop :=
  (encode i).length = FormatLength.bytes i ∧
  ((encode i).head?.bind (lookupForm opcodeMap)).isSome = true ∧ (encode i).head? ≠ some 0

theorem FormatLength.halt : FormatLength.Statement .halt :=
  ⟨rfl, rfl, fun h => by cases h⟩

theorem FormatLength.setstk (w : Word) : FormatLength.Statement (.setstk w) :=
  ⟨rfl, rfl, fun h => by cases h⟩

theorem FormatLength.seta (w : Word) : FormatLength.Statement (.seta w) :=
  ⟨rfl, rfl, fun h => by cases h⟩

theorem FormatLength.setb (w : Word) : FormatLength.Statement (.setb w) :=
  ⟨rfl, rfl, fun h => by cases h⟩

theorem FormatLength.setx (w : Word) : FormatLength.Statement (.setx w) :=
  ⟨rfl, rfl, fun h => by cases h⟩

theorem FormatLength.sety (w : Word) : FormatLength.Statement (.sety w) :=
  ⟨rfl, rfl, fun h => by cases h⟩

theorem FormatLength.ldal (w : Word) : FormatLength.Statement (.ldal w) :=
  ⟨rfl, rfl, fun h => by cases h⟩

theorem FormatLength.ldah (w : Word) : FormatLength.Statement (.ldah w) :=
  ⟨rfl, rfl, fun h => by cases h⟩

theorem FormatLength.ldbl (w : Word) : FormatLength.Statement (.ldbl w) :=
  ⟨rfl, rfl, fun h => by cases h⟩

theorem FormatLength.ldbh (w : Word) : FormatLength.Statement (.ldbh w) :=
  ⟨rfl, rfl, fun h => by cases h⟩

theorem FormatLength.ldxl (w : Word) : FormatLength.Statement (.ldxl w) :=
  ⟨rfl, rfl, fun h => by cases h⟩

theorem FormatLength.ldxh (w : Word) : FormatLength.Statement (.ldxh w) :=
  ⟨rfl, rfl, fun h => by cases h⟩

theorem FormatLength.ldyl (w : Word) : FormatLength.Statement (.ldyl w) :=
  ⟨rfl, rfl, fun h => by cases h⟩

theorem FormatLength.ldyh (w : Word) : FormatLength.Statement (.ldyh w) :=
  ⟨rfl, rfl, fun h => by cases h⟩

theorem FormatLength.stal (w : Word) : FormatLength.Statement (.stal w) :=
  ⟨rfl, rfl, fun h => by cases h⟩

theorem FormatLength.stah (w : Word) : FormatLength.Statement (.stah w) :=
  ⟨rfl, rfl, fun h => by cases h⟩

theorem FormatLength.stbl (w : Word) : FormatLength.Statement (.stbl w) :=
  ⟨rfl, rfl, fun h => by cases h⟩

theorem FormatLength.stbh (w : Word) : FormatLength.Statement (.stbh w) :=
  ⟨rfl, rfl, fun h => by cases h⟩

theorem FormatLength.stxl (w : Word) : FormatLength.Statement (.stxl w) :=
  ⟨rfl, rfl, fun h => by cases h⟩

theorem FormatLength.stxh (w : Word) : FormatLength.Statement (.stxh w) :=
  ⟨rfl, rfl, fun h => by cases h⟩

theorem FormatLength.styl (w : Word) : FormatLength.Statement (.styl w) :=
  ⟨rfl, rfl, fun h => by cases h⟩

theorem FormatLength.styh (w : Word) : FormatLength.Statement (.styh w) :=
  ⟨rfl, rfl, fun h => by cases h⟩

theorem FormatLength.lxal : FormatLength.Statement .lxal :=
  ⟨rfl, rfl, fun h => by cases h⟩

theorem FormatLength.lxah : FormatLength.Statement .lxah :=
  ⟨rfl, rfl, fun h => by cases h⟩

theorem FormatLength.lxbl : FormatLength.Statement .lxbl :=
  ⟨rfl, rfl, fun h => by cases h⟩

theorem FormatLength.lxbh : FormatLength.Statement .lxbh :=
  ⟨rfl, rfl, fun h => by cases h⟩

theorem FormatLength.lxxl : FormatLength.Statement .lxxl :=
  ⟨rfl, rfl, fun h => by cases h⟩

theorem FormatLength.lxxh : FormatLength.Statement .lxxh :=
  ⟨rfl, rfl, fun h => by cases h⟩

theorem FormatLength.lxyl : FormatLength.Statement .lxyl :=
  ⟨rfl, rfl, fun h => by cases h⟩

theorem FormatLength.lxyh : FormatLength.Statement .lxyh :=
  ⟨rfl, rfl, fun h => by cases h⟩

theorem FormatLength.lyal : FormatLength.Statement .lyal :=
  ⟨rfl, rfl, fun h => by cases h⟩

theorem FormatLength.lyah : FormatLength.Statement .lyah :=
  ⟨rfl, rfl, fun h => by cases h⟩

theorem FormatLength.lybl : FormatLength.Statement .lybl :=
  ⟨rfl, rfl, fun h => by cases h⟩

theorem FormatLength.lybh : FormatLength.Statement .lybh :=
  ⟨rfl, rfl, fun h => by cases h⟩

theorem FormatLength.lyxl : FormatLength.Statement .lyxl :=
  ⟨rfl, rfl, fun h => by cases h⟩

theorem FormatLength.lyxh : FormatLength.Statement .lyxh :=
  ⟨rfl, rfl, fun h => by cases h⟩

theorem FormatLength.lyyl : FormatLength.Statement .lyyl :=
  ⟨rfl, rfl, fun h => by cases h⟩

theorem FormatLength.lyyh : FormatLength.Statement .lyyh :=
  ⟨rfl, rfl, fun h => by cases h⟩

theorem FormatLength.pushal : FormatLength.Statement .pushal :=
  ⟨rfl, rfl, fun h => by cases h⟩

theorem FormatLength.pushah : FormatLength.Statement .pushah :=
  ⟨rfl, rfl, fun h => by cases h⟩

theorem FormatLength.pushbl : FormatLength.Statement .pushbl :=
  ⟨rfl, rfl, fun h => by cases h⟩

theorem FormatLength.pushbh : FormatLength.Statement .pushbh :=
  ⟨rfl, rfl, fun h => by cases h⟩

theorem FormatLength.pushxl : FormatLength.Statement .pushxl :=
  ⟨rfl, rfl, fun h => by cases h⟩

theorem FormatLength.pushxh : FormatLength.Statement .pushxh :=
  ⟨rfl, rfl, fun h => by cases h⟩

theorem FormatLength.pushyl : FormatLength.Statement .pushyl :=
  ⟨rfl, rfl, fun h => by cases h⟩

theorem FormatLength.pushyh : FormatLength.Statement .pushyh :=
  ⟨rfl, rfl, fun h => by cases h⟩

theorem FormatLength.popal : FormatLength.Statement .popal :=
  ⟨rfl, rfl, fun h => by cases h⟩

theorem FormatLength.popah : FormatLength.Statement .popah :=
  ⟨rfl, rfl, fun h => by cases h⟩

theorem FormatLength.popbl : FormatLength.Statement .popbl :=
  ⟨rfl, rfl, fun h => by cases h⟩

theorem FormatLength.popbh : FormatLength.Statement .popbh :=
  ⟨rfl, rfl, fun h => by cases h⟩

theorem FormatLength.popxl : FormatLength.Statement .popxl :=
  ⟨rfl, rfl, fun h => by cases h⟩

theorem FormatLength.popxh : FormatLength.Statement .popxh :=
  ⟨rfl, rfl, fun h => by cases h⟩

theorem FormatLength.popyl : FormatLength.Statement .popyl :=
  ⟨rfl, rfl, fun h => by cases h⟩

theorem FormatLength.popyh : FormatLength.Statement .popyh :=
  ⟨rfl, rfl, fun h => by cases h⟩

theorem FormatLength.add : FormatLength.Statement .add :=
  ⟨rfl, rfl, fun h => by cases h⟩

theorem FormatLength.sub : FormatLength.Statement .sub :=
  ⟨rfl, rfl, fun h => by cases h⟩

theorem FormatLength.mul : FormatLength.Statement .mul :=
  ⟨rfl, rfl, fun h => by cases h⟩

theorem FormatLength.div : FormatLength.Statement .div :=
  ⟨rfl, rfl, fun h => by cases h⟩

theorem FormatLength.incx : FormatLength.Statement .incx :=
  ⟨rfl, rfl, fun h => by cases h⟩

theorem FormatLength.decx : FormatLength.Statement .decx :=
  ⟨rfl, rfl, fun h => by cases h⟩

theorem FormatLength.incy : FormatLength.Statement .incy :=
  ⟨rfl, rfl, fun h => by cases h⟩

theorem FormatLength.decy : FormatLength.Statement .decy :=
  ⟨rfl, rfl, fun h => by cases h⟩

theorem FormatLength.jmpr (v : Byte) : FormatLength.Statement (.jmpr v) :=
  ⟨rfl, rfl, fun h => by cases h⟩

theorem FormatLength.jeqr (v : Byte) : FormatLength.Statement (.jeqr v) :=
  ⟨rfl, rfl, fun h => by cases h⟩

theorem FormatLength.jgtr (v : Byte) : FormatLength.Statement (.jgtr v) :=
  ⟨rfl, rfl, fun h => by cases h⟩

theorem FormatLength.jltr (v : Byte) : FormatLength.Statement (.jltr v) :=
  ⟨rfl, rfl, fun h => by cases h⟩

theorem FormatLength.jmp (w : Word) : FormatLength.Statement (.jmp w) :=
  ⟨rfl, rfl, fun h => by cases h⟩

theorem FormatLength.jeq (w : Word) : FormatLength.Statement (.jeq w) :=
  ⟨rfl, rfl, fun h => by cases h⟩

theorem FormatLength.jgt (w : Word) : FormatLength.Statement (.jgt w) :=
  ⟨rfl, rfl, fun h => by cases h⟩

theorem FormatLength.jlt (w : Word) : FormatLength.Statement (.jlt w) :=
  ⟨rfl, rfl, fun h => by cases h⟩

theorem FormatLength.call (w : Word) : FormatLength.Statement (.call w) :=
  ⟨rfl, rfl, fun h => by cases h⟩

theorem FormatLength.ret : FormatLength.Statement .ret :=
  ⟨rfl, rfl, fun h => by cases h⟩

theorem FormatLength.tab : FormatLength.Statement .tab :=
  ⟨rfl, rfl, fun h => by cases h⟩

theorem FormatLength.tax : FormatLength.Statement .tax :=
  ⟨rfl, rfl, fun h => by cases h⟩

theorem FormatLength.tay : FormatLength.Statement .tay :=
  ⟨rfl, rfl, fun h => by cases h⟩

theorem FormatLength.tba : FormatLength.Statement .tba :=
  ⟨rfl, rfl, fun h => by cases h⟩

theorem FormatLength.tbx : FormatLength.Statement .tbx :=
  ⟨rfl, rfl, fun h => by cases h⟩

theorem FormatLength.tby : FormatLength.Statement .tby :=
  ⟨rfl, rfl, fun h => by cases h⟩

theorem FormatLength.txa : FormatLength.Statement .txa :=
  ⟨rfl, rfl, fun h => by cases h⟩

theorem FormatLength.txb : FormatLength.Statement .txb :=
  ⟨rfl, rfl, fun h => by cases h⟩

theorem FormatLength.txy : FormatLength.Statement .txy :=
  ⟨rfl, rfl, fun h => by cases h⟩

theorem FormatLength.tya : FormatLength.Statement .tya :=
  ⟨rfl, rfl, fun h => by cases h⟩

theorem FormatLength.tyb : FormatLength.Statement .tyb :=
  ⟨rfl, rfl, fun h => by cases h⟩

theorem FormatLength.tyx : FormatLength.Statement .tyx :=
  ⟨rfl, rfl, fun h => by cases h⟩

end Sys2Proof.Laws
end

