-- ==== Sys2Proof/Laws/Step.lean ====
section
/-! SUPPORT. What a tick, an edge and a step can do, said once: the shape of an exec tick, what the rows
of the tick tables leave alone, runs of edges, and the three ways of a step. -/

namespace Sys2Proof.Machine

/-! ## One exec cycle -/

@[simp] theorem State.latchOpcode_of_unset {s : State} (D : Byte) (h : s.opcode = 0) :
    s.latchOpcode D = { s with opcode := D } := if_pos h

@[simp] theorem State.latchOpcode_of_set {s : State} (D : Byte) (h : s.opcode ≠ 0) :
    s.latchOpcode D = s := if_neg h

@[simp] theorem State.countCycle_of_unset {s : State} (h : s.opcode = 0) : s.countCycle = s := if_pos h

@[simp] theorem State.countCycle_of_set {s : State} (h : s.opcode ≠ 0) :
    s.countCycle = { s with state := s.state + 1 } := if_neg h

theorem State.run_eq (s : State) (bytes : List Byte) (rows : List Row) :
    s.run bytes rows = State.runRows bytes rows s.fetchEdge := rfl

theorem State.runRows_nil (bytes : List Byte) (s : State) : State.runRows bytes [] s = s := by
  cases bytes <;> rfl

theorem State.runRows_cons (bytes : List Byte) (row : Row) (rows : List Row) (s : State) :
    State.runRows bytes (row :: rows) s
      = State.runRows bytes.tail rows (s.execEdge (bytes.headD s.bus.data) row) := by
  cases bytes <;> rfl

/-- The fetch edge: the opcode read is issued and answered (40_controller.md rule R173). -/
theorem State.fetchEdge_eq (s : State) :
    s.fetchEdge = { s with opcode := 0, state := 0, fetch := false
                           bus := ⟨s.pc, s.answer s.pc s.bus.data, true⟩ } := by
  unfold State.fetchEdge
  rw [State.tickDevices_of_read rfl]
  rfl

/-! ## The tick tables -/

/-- A handler has as many rows as its instruction has exec cycles (40_controller.md rule R175). -/
theorem handlerRows_length (i : Instr) : (handlerRows i).length = execCycles i := by
  cases i <;> rfl

theorem execCycles_pos (i : Instr) : 1 ≤ execCycles i := by
  cases i <;> simp [execCycles]

theorem execCycles_le (i : Instr) : execCycles i ≤ maxCycles := by
  cases i <;> simp [execCycles, maxCycles]

/-- What a row of a tick table can do to the control state: complete the instruction, go on to the next
cycle with the bus operation that `lastBusOp` names for it, halt, or raise the fault of a division by
zero. No row touches a device. -/
def RowEffect (i : Instr) (k : Nat) (D : Byte) (s r : State) : Prop :=
  r.devices = s.devices ∧
  ((r.halt = false ∧ r.log = s.log ∧ r.fetch = true ∧ r.opcode = 0 ∧ r.state = 0) ∨
   (r.halt = false ∧ r.log = s.log ∧ r.fetch = false ∧ r.opcode = s.opcode ∧ r.state = s.state ∧
      k + 1 < execCycles i ∧ r.Latched (r.lastBusOp i (k + 1))) ∨
   (k = 0 ∧ i = .halt ∧ r = { s with halt := true }) ∨
   (k = 0 ∧ i = .div ∧ s.b = 0 ∧ r = s.raise .divideByZero D))

/-- Every row of every tick table, run on a core that is in `Exec`, has one of those effects. -/
theorem handlerRows_effect (i : Instr) (k : Nat) (hk : k < execCycles i) (D : Byte) (s : State)
    (hh : s.halt = false) (hf : s.fetch = false) :
    ∃ row, (handlerRows i)[k]? = some row ∧ RowEffect i k D s (row D s) := by
  obtain ⟨pc, stk, adr, a, b, x, y, op, st, f, h, bus, ds, l⟩ := s
  simp only at hh hf
  subst hh hf
  cases i
  all_goals
    simp only [execCycles] at hk
    interval_cases k
    all_goals
      refine ⟨_, rfl, ?_⟩
      simp [RowEffect, execCycles, State.lastBusOp, State.Latched, receiveRow, State.pushByte, State.popRequest, State.jumpToAdr,
        State.returnAddress, State.busWrite, State.getHalf, partOf, State.raise, requestRow,
        latchLowRow, latchHighRow, State.busRead, State.nextByte, State.advance, State.setHalf,
        State.set, State.get, withPart]
      try (split <;> simp [*])

/-! ## The bus between two edges -/

/-- After the devices' tick the bus holds the operation that the core's tick latched (20_memory.md rules
R81, R82). -/
theorem State.holdsBusOp_tickDevices {s : State} {o : BusOp} (h : s.Latched o) :
    s.tickDevices.HoldsBusOp o := by
  cases o with
  | read A =>
    obtain ⟨rfl, hr⟩ := h
    refine ⟨?_, State.tickDevices_settled hr⟩
    rw [State.tickDevices_of_read hr]
    exact ⟨rfl, rfl⟩
  | write A v =>
    have hb : s.bus = ⟨A, v, false⟩ := h
    rw [State.tickDevices_of_write (by rw [hb]), hb]
    refine ⟨hb, fun hw => ?_⟩
    rw [State.writableAt_storeByte] at hw
    rw [State.memRead_storeByte_same, if_pos hw]

/-- The devices leave the registers alone, so they leave the operation alone that the registers name. -/
@[simp] theorem State.lastBusOp_tickDevices (s : State) (i : Instr) (n : Nat) :
    s.tickDevices.lastBusOp i n = s.lastBusOp i n := by
  cases i <;> rfl

/-- Ticking the devices again changes nothing where the bus holds an answered read (20_memory.md rule
R83). -/
theorem State.tickDevices_of_holdsRead {s : State} {A : Word} (h : s.HoldsBusOp (.read A)) :
    s.tickDevices = s := by
  obtain ⟨⟨rfl, hr⟩, hd⟩ := h
  rw [State.tickDevices_of_read hr, hd, ← hr]

/-! ## Ticks and edges -/

/-- The three ways of a tick (40_controller.md rule R171). -/
theorem State.tick_of_halt {s : State} (h : s.halt = true) : s.tick = .next s := if_pos h

theorem State.tick_of_fetch {s : State} (hh : s.halt = false) (hf : s.fetch = true) :
    s.tick = .next s.fetchTick := by
  unfold State.tick
  rw [if_neg (by simp [hh]), if_pos hf]

theorem State.tick_of_exec {s : State} {row : Row} (hh : s.halt = false) (hf : s.fetch = false)
    (hr : dispatchRow (s.latchOpcode s.bus.data).opcode s.state = some row) :
    s.tick = .next (s.execTick s.bus.data row) := by
  unfold State.tick
  rw [if_neg (by simp [hh]), if_neg (by simp [hf])]
  simp only [hr]

/-- No tick touches a device (20_memory.md rule R80). -/
theorem State.tick_devices {s t : State} (h : s.tick = .next t) : t.devices = s.devices := by
  unfold State.tick at h
  split at h
  · cases h; rfl
  · rename_i hh
    split at h
    · cases h; rfl
    · rename_i hf
      simp only [Bool.not_eq_true] at hh hf
      simp only at h
      split at h
      · rename_i row hr
        cases h
        unfold State.execTick
        rw [State.countCycle_devices, ← State.latchOpcode_devices s s.bus.data]
        unfold dispatchRow at hr
        split at hr
        · cases hr; rfl
        · rename_i i hi
          have hk : s.state.toNat < execCycles i := by
            rw [← handlerRows_length]
            exact (List.getElem?_eq_some_iff.1 hr).1
          obtain ⟨row', h1, h2, _⟩ := handlerRows_effect i s.state.toNat hk s.bus.data
            (s.latchOpcode s.bus.data) (by unfold State.latchOpcode; split <;> exact hh)
            (by unfold State.latchOpcode; split <;> exact hf)
          rw [hr] at h1
          cases h1
          exact h2
      · cases h

theorem State.edge_of_tick {s t : State} (h : s.tick = .next t) : s.edge = .next t.tickDevices := by
  unfold State.edge
  rw [h]

/-- An edge is a tick of the core and one of every device (20_memory.md rule R80). -/
theorem State.edge_cases {s t : State} (h : s.edge = .next t) :
    ∃ r, s.tick = .next r ∧ r.devices = s.devices ∧ t = r.tickDevices := by
  unfold State.edge at h
  split at h <;> cases h
  rename_i u hu
  exact ⟨u, hu, State.tick_devices hu, rfl⟩

/-- An edge moves no window. -/
theorem State.edge_cfgs {s t : State} (h : s.edge = .next t) :
    t.devices.map (fun d => d.cfg) = s.devices.map (fun d => d.cfg) := by
  obtain ⟨r, _, hr, rfl⟩ := State.edge_cases h
  rw [State.tickDevices_cfgs, hr]

/-- The first edge of several. -/
theorem State.edges_succ (n : Nat) (s : State) :
    State.edges (n + 1) s = match s.edge with
      | .next t => State.edges n t
      | .fault r => .fault r
      | .refused r => .refused r := rfl

/-- Two runs of edges, one after the other. -/
theorem State.edges_append {m : Nat} (n : Nat) {s t : State} (h : State.edges m s = .next t) :
    State.edges (m + n) s = State.edges n t := by
  induction m generalizing s with
  | zero => cases h; rw [Nat.zero_add]
  | succ m ih =>
    rw [Nat.succ_add, Nat.succ_eq_add_one, State.edges_succ]
    rw [State.edges_succ] at h
    cases he : s.edge with
    | next u => rw [he] at h; exact ih h
    | fault r => rw [he] at h; cases h
    | refused r => rw [he] at h; cases h

/-! ## Steps -/

/-- The ways of a step: refused, one edge of a halted core, an instruction, the rest of one. -/
theorem step_cases (s : State) :
    (s.platformOk = false ∧ step s = .refused .illFormedPlatform) ∨
    (s.platformOk = true ∧
      ((s.halt = true ∧ step s = s.edge) ∨
       (s.halt = false ∧ s.fetch = true ∧ step s = s.stepFetched) ∨
       (s.halt = false ∧ s.fetch = false ∧ step s = s.finish maxCycles))) := by
  unfold step
  cases s.platformOk <;> cases s.halt <;> cases s.fetch <;> simp

end Sys2Proof.Machine
end

