-- ==== Sys2Proof/Tests/Slice0.lean ====
section
/-! SUPPORT. Tests: what well-formedness refuses, one encoding of every constructor, one step of every
instruction on the spec's own vectors, and for every obligation with hypotheses a state that meets
them. -/

namespace Sys2Proof.Tests

open Sys2Proof Sys2Proof.Machine Sys2Proof.Claims

/-! ## Well-formedness

The checks are on platforms (20_memory.md rules R79 and R86); an instruction has none, since every
operand value is legal (30_encoding.md rule R132). -/

theorem test_wf_reference_platform : platformWf Config.p0 = true := by decide

/-- A window may end at the top of the address space, one more byte is refused. -/
theorem test_wf_window_at_the_top :
    platformWf [⟨0xFF00, 0x0100, true⟩] = true ∧ platformWf [⟨0xFF00, 0x0101, true⟩] = false := by
  decide

/-- Windows may touch, one shared address is refused, in either order. -/
theorem test_wf_windows_that_touch :
    platformWf [⟨0x0000, 0x4000, true⟩, ⟨0x4000, 0x4000, true⟩] = true ∧
    platformWf [⟨0x0000, 0x4001, true⟩, ⟨0x4000, 0x4000, true⟩] = false ∧
    platformWf [⟨0x4000, 0x4000, true⟩, ⟨0x0000, 0x4001, true⟩] = false := by
  decide

/-- A device without a window overlaps nothing. -/
theorem test_wf_empty_window :
    platformWf [⟨0x0000, 0x4000, true⟩, ⟨0x1000, 0x0000, true⟩] = true := by
  decide

/-- The step refuses an ill-formed platform. -/
theorem test_wf_step_refuses :
    step (State.resetOn [⟨⟨0x0000, 0x4000, true⟩, []⟩, ⟨⟨0x3FFF, 0x0001, true⟩, []⟩])
      = .refused .illFormedPlatform :=
  rfl

theorem test_wf_instruction : Instr.wf (.seta 0xFFFF) = true := by decide

/-! ## Stores -/

theorem test_store_form :
    Memory.wf [(0, 1), (1, 2)] = true ∧ Memory.wf [(1, 2), (0, 1)] = false ∧
    Memory.wf [(1, 2), (1, 3)] = false ∧ Memory.wf [(1, 0)] = false := by
  decide

/-- Writing what an unlisted offset reads as removes the cell, so equal stores are equal data. -/
theorem test_store_write :
    Memory.write [(2, 5)] 1 7 = [(1, 7), (2, 5)] ∧ Memory.write [(2, 5)] 2 0 = [] ∧
    Memory.write [(2, 5)] 2 6 = [(2, 6)] := by
  decide

theorem test_store_reset : ∀ d ∈ State.reset.devices, Memory.wf d.store = true := by decide

/-! ## Decoding

The opcode byte and the operand bytes are written from 30_encoding.md rules R124 and R128. -/

/-- What the decoder reads at the head of a byte stream. -/
def reads (bytes : List Byte) : Option Instr :=
  match decode bytes with
  | .ok (i, _) => some i
  | .error _ => none

theorem test_decode_halt :
    reads [0x01] = some .halt := by
  decide

theorem test_decode_set :
    reads [0x12, 0x34, 0x12] = some (.setstk 0x1234) ∧
    reads [0x16, 0x35, 0x12] = some (.seta 0x1235) ∧
    reads [0x18, 0x36, 0x12] = some (.setb 0x1236) ∧
    reads [0x1A, 0x37, 0x12] = some (.setx 0x1237) ∧
    reads [0x1C, 0x38, 0x12] = some (.sety 0x1238) := by
  decide

theorem test_decode_load :
    reads [0x26, 0x34, 0x12] = some (.ldal 0x1234) ∧
    reads [0x27, 0x35, 0x12] = some (.ldah 0x1235) ∧
    reads [0x28, 0x36, 0x12] = some (.ldbl 0x1236) ∧
    reads [0x29, 0x37, 0x12] = some (.ldbh 0x1237) ∧
    reads [0x2A, 0x38, 0x12] = some (.ldxl 0x1238) ∧
    reads [0x2B, 0x39, 0x12] = some (.ldxh 0x1239) ∧
    reads [0x2C, 0x3A, 0x12] = some (.ldyl 0x123A) ∧
    reads [0x2D, 0x3B, 0x12] = some (.ldyh 0x123B) := by
  decide

theorem test_decode_store :
    reads [0x36, 0x34, 0x12] = some (.stal 0x1234) ∧
    reads [0x37, 0x35, 0x12] = some (.stah 0x1235) ∧
    reads [0x38, 0x36, 0x12] = some (.stbl 0x1236) ∧
    reads [0x39, 0x37, 0x12] = some (.stbh 0x1237) ∧
    reads [0x3A, 0x38, 0x12] = some (.stxl 0x1238) ∧
    reads [0x3B, 0x39, 0x12] = some (.stxh 0x1239) ∧
    reads [0x3C, 0x3A, 0x12] = some (.styl 0x123A) ∧
    reads [0x3D, 0x3B, 0x12] = some (.styh 0x123B) := by
  decide

theorem test_decode_indirect :
    reads [0x46] = some .lxal ∧
    reads [0x47] = some .lxah ∧
    reads [0x48] = some .lxbl ∧
    reads [0x49] = some .lxbh ∧
    reads [0x4A] = some .lxxl ∧
    reads [0x4B] = some .lxxh ∧
    reads [0x4C] = some .lxyl ∧
    reads [0x4D] = some .lxyh ∧
    reads [0x56] = some .lyal ∧
    reads [0x57] = some .lyah ∧
    reads [0x58] = some .lybl ∧
    reads [0x59] = some .lybh ∧
    reads [0x5A] = some .lyxl ∧
    reads [0x5B] = some .lyxh ∧
    reads [0x5C] = some .lyyl ∧
    reads [0x5D] = some .lyyh := by
  decide

theorem test_decode_push :
    reads [0x66] = some .pushal ∧
    reads [0x67] = some .pushah ∧
    reads [0x68] = some .pushbl ∧
    reads [0x69] = some .pushbh ∧
    reads [0x6A] = some .pushxl ∧
    reads [0x6B] = some .pushxh ∧
    reads [0x6C] = some .pushyl ∧
    reads [0x6D] = some .pushyh := by
  decide

theorem test_decode_pop :
    reads [0x76] = some .popal ∧
    reads [0x77] = some .popah ∧
    reads [0x78] = some .popbl ∧
    reads [0x79] = some .popbh ∧
    reads [0x7A] = some .popxl ∧
    reads [0x7B] = some .popxh ∧
    reads [0x7C] = some .popyl ∧
    reads [0x7D] = some .popyh := by
  decide

theorem test_decode_alu :
    reads [0x81] = some .add ∧
    reads [0x82] = some .sub ∧
    reads [0x83] = some .mul ∧
    reads [0x84] = some .div ∧
    reads [0x88] = some .incx ∧
    reads [0x89] = some .decx ∧
    reads [0x8A] = some .incy ∧
    reads [0x8B] = some .decy := by
  decide

theorem test_decode_jumps :
    reads [0x90, 0xFE] = some (.jmpr 0xFE) ∧
    reads [0x91, 0xFE] = some (.jeqr 0xFE) ∧
    reads [0x92, 0xFE] = some (.jgtr 0xFE) ∧
    reads [0x93, 0xFE] = some (.jltr 0xFE) ∧
    reads [0xA0, 0x38, 0x12] = some (.jmp 0x1238) ∧
    reads [0xA1, 0x39, 0x12] = some (.jeq 0x1239) ∧
    reads [0xA2, 0x3A, 0x12] = some (.jgt 0x123A) ∧
    reads [0xA3, 0x3B, 0x12] = some (.jlt 0x123B) ∧
    reads [0xA8, 0x3C, 0x12] = some (.call 0x123C) ∧
    reads [0xA9] = some .ret := by
  decide

theorem test_decode_transfer :
    reads [0xB8] = some .tab ∧
    reads [0xBA] = some .tax ∧
    reads [0xBC] = some .tay ∧
    reads [0xC6] = some .tba ∧
    reads [0xCA] = some .tbx ∧
    reads [0xCC] = some .tby ∧
    reads [0xD6] = some .txa ∧
    reads [0xD8] = some .txb ∧
    reads [0xDC] = some .txy ∧
    reads [0xE6] = some .tya ∧
    reads [0xE8] = some .tyb ∧
    reads [0xEA] = some .tyx := by
  decide

/-! ## One step of every instruction

The vectors of 95_test_vectors.md part 2, whose name each theorem carries; registers in the order
pc, stk, adr, a, b, x, y. -/

/-- The state at which a vector of 95_test_vectors.md starts: the code at 0x0100, the listed bytes in the
store, pc at the code, on the reference platform. -/
def start (code : List Byte) (mem : List (Word × Byte)) (s : State) : State :=
  mem.foldl (fun t c => t.pokeByte c.1 c.2) (State.pokeBytes code 0x0100 { s with pc := 0x0100 })

/-- The registers after one step. -/
def regsAfter (s : State) : Option (List Word) :=
  match step s with
  | .next t => some [t.pc, t.stk, t.adr, t.a, t.b, t.x, t.y]
  | _ => none

/-- Bytes of memory after one step. -/
def bytesAfter (as : List Word) (s : State) : Option (List (Option Byte)) :=
  match step s with
  | .next t => some (as.map t.memRead)
  | _ => none

/-- The log after one step that halts the core. -/
def logAfter (s : State) : Option (List FaultRecord) :=
  match step s with
  | .next t => if t.halt then some t.log else none
  | _ => none

theorem test_halt_H1 :
    regsAfter (start [0x01] []
      { State.reset with a := 0x1234 })
      = some [0x0100, 0x0000, 0x0000, 0x1234, 0x0000, 0x0000, 0x0000] ∧
    logAfter (start [0x01] []
      { State.reset with a := 0x1234 }) = some [] := by
  decide

theorem test_setstk_SET1 :
    regsAfter (start [0x12, 0xFF, 0x7F] [] State.reset)
      = some [0x0103, 0x7FFF, 0x0000, 0x0000, 0x0000, 0x0000, 0x0000] := by
  decide

theorem test_seta_SET2 :
    regsAfter (start [0x16, 0x34, 0x12] []
      { State.reset with a := 0xA5A5 })
      = some [0x0103, 0x0000, 0x0000, 0x1234, 0x0000, 0x0000, 0x0000] := by
  decide

theorem test_setb_SET3 :
    regsAfter (start [0x18, 0x00, 0x00] []
      { State.reset with b := 0xFFFF })
      = some [0x0103, 0x0000, 0x0000, 0x0000, 0x0000, 0x0000, 0x0000] := by
  decide

theorem test_setx_SET4 :
    regsAfter (start [0x1A, 0xFF, 0xFF] [] State.reset)
      = some [0x0103, 0x0000, 0x0000, 0x0000, 0x0000, 0xFFFF, 0x0000] := by
  decide

theorem test_sety_SET5 :
    regsAfter (start [0x1C, 0x00, 0x80] []
      { State.reset with y := 0x0001 })
      = some [0x0103, 0x0000, 0x0000, 0x0000, 0x0000, 0x0000, 0x8000] := by
  decide

theorem test_ldal_LD1 :
    regsAfter (start [0x26, 0x40, 0x02] [(0x0240, 0x5C)]
      { State.reset with a := 0xA5A5 })
      = some [0x0103, 0x0000, 0x0240, 0xA55C, 0x0000, 0x0000, 0x0000] := by
  decide

theorem test_ldal_LD9 :
    regsAfter (start [0x26, 0x00, 0x90] []
      { State.reset with a := 0xA5A5 })
      = some [0x0103, 0x0000, 0x9000, 0xA590, 0x0000, 0x0000, 0x0000] := by
  decide

theorem test_ldah_LD2 :
    regsAfter (start [0x27, 0x40, 0x02] [(0x0240, 0x5C)]
      { State.reset with a := 0xA5A5 })
      = some [0x0103, 0x0000, 0x0240, 0x5CA5, 0x0000, 0x0000, 0x0000] := by
  decide

theorem test_ldah_LD11 :
    regsAfter (start [0x27, 0xFF, 0x7F] [(0x7FFF, 0xFF)]
      { State.reset with a := 0x0000 })
      = some [0x0103, 0x0000, 0x7FFF, 0xFF00, 0x0000, 0x0000, 0x0000] := by
  decide

theorem test_ldbl_LD3 :
    regsAfter (start [0x28, 0x40, 0x02] [(0x0240, 0x5C)]
      { State.reset with b := 0xA5A5 })
      = some [0x0103, 0x0000, 0x0240, 0x0000, 0xA55C, 0x0000, 0x0000] := by
  decide

theorem test_ldbh_LD4 :
    regsAfter (start [0x29, 0x40, 0x02] [(0x0240, 0x5C)]
      { State.reset with b := 0xA5A5 })
      = some [0x0103, 0x0000, 0x0240, 0x0000, 0x5CA5, 0x0000, 0x0000] := by
  decide

theorem test_ldxl_LD5 :
    regsAfter (start [0x2A, 0x40, 0x02] [(0x0240, 0x5C)]
      { State.reset with x := 0xA5A5 })
      = some [0x0103, 0x0000, 0x0240, 0x0000, 0x0000, 0xA55C, 0x0000] := by
  decide

theorem test_ldxh_LD6 :
    regsAfter (start [0x2B, 0x40, 0x02] [(0x0240, 0x5C)]
      { State.reset with x := 0xA5A5 })
      = some [0x0103, 0x0000, 0x0240, 0x0000, 0x0000, 0x5CA5, 0x0000] := by
  decide

theorem test_ldyl_LD7 :
    regsAfter (start [0x2C, 0x40, 0x02] [(0x0240, 0x5C)]
      { State.reset with y := 0xA5A5 })
      = some [0x0103, 0x0000, 0x0240, 0x0000, 0x0000, 0x0000, 0xA55C] := by
  decide

theorem test_ldyh_LD8 :
    regsAfter (start [0x2D, 0x40, 0x02] [(0x0240, 0x5C)]
      { State.reset with y := 0xA5A5 })
      = some [0x0103, 0x0000, 0x0240, 0x0000, 0x0000, 0x0000, 0x5CA5] := by
  decide

theorem test_stal_ST1 :
    regsAfter (start [0x36, 0x40, 0x02] []
      { State.reset with a := 0x12EF })
      = some [0x0103, 0x0000, 0x0240, 0x12EF, 0x0000, 0x0000, 0x0000] ∧
    bytesAfter [0x0240] (start [0x36, 0x40, 0x02] []
      { State.reset with a := 0x12EF })
      = some [some 0xEF] := by
  decide

theorem test_stal_ST9 :
    regsAfter (start [0x36, 0x00, 0x90] []
      { State.reset with a := 0x12EF })
      = some [0x0103, 0x0000, 0x9000, 0x12EF, 0x0000, 0x0000, 0x0000] := by
  decide

theorem test_stah_ST2 :
    regsAfter (start [0x37, 0x40, 0x02] []
      { State.reset with a := 0x12EF })
      = some [0x0103, 0x0000, 0x0240, 0x12EF, 0x0000, 0x0000, 0x0000] ∧
    bytesAfter [0x0240] (start [0x37, 0x40, 0x02] []
      { State.reset with a := 0x12EF })
      = some [some 0x12] := by
  decide

theorem test_stah_ST11 :
    regsAfter (start [0x37, 0x00, 0x00] []
      { State.reset with a := 0xAB00 })
      = some [0x0103, 0x0000, 0x0000, 0xAB00, 0x0000, 0x0000, 0x0000] ∧
    bytesAfter [0x0000] (start [0x37, 0x00, 0x00] []
      { State.reset with a := 0xAB00 })
      = some [some 0xAB] := by
  decide

theorem test_stbl_ST3 :
    regsAfter (start [0x38, 0x40, 0x02] []
      { State.reset with b := 0x12EF })
      = some [0x0103, 0x0000, 0x0240, 0x0000, 0x12EF, 0x0000, 0x0000] ∧
    bytesAfter [0x0240] (start [0x38, 0x40, 0x02] []
      { State.reset with b := 0x12EF })
      = some [some 0xEF] := by
  decide

theorem test_stbh_ST4 :
    regsAfter (start [0x39, 0x40, 0x02] []
      { State.reset with b := 0x12EF })
      = some [0x0103, 0x0000, 0x0240, 0x0000, 0x12EF, 0x0000, 0x0000] ∧
    bytesAfter [0x0240] (start [0x39, 0x40, 0x02] []
      { State.reset with b := 0x12EF })
      = some [some 0x12] := by
  decide

theorem test_stxl_ST5 :
    regsAfter (start [0x3A, 0x40, 0x02] []
      { State.reset with x := 0x12EF })
      = some [0x0103, 0x0000, 0x0240, 0x0000, 0x0000, 0x12EF, 0x0000] ∧
    bytesAfter [0x0240] (start [0x3A, 0x40, 0x02] []
      { State.reset with x := 0x12EF })
      = some [some 0xEF] := by
  decide

theorem test_stxh_ST6 :
    regsAfter (start [0x3B, 0x40, 0x02] []
      { State.reset with x := 0x12EF })
      = some [0x0103, 0x0000, 0x0240, 0x0000, 0x0000, 0x12EF, 0x0000] ∧
    bytesAfter [0x0240] (start [0x3B, 0x40, 0x02] []
      { State.reset with x := 0x12EF })
      = some [some 0x12] := by
  decide

theorem test_styl_ST7 :
    regsAfter (start [0x3C, 0x40, 0x02] []
      { State.reset with y := 0x12EF })
      = some [0x0103, 0x0000, 0x0240, 0x0000, 0x0000, 0x0000, 0x12EF] ∧
    bytesAfter [0x0240] (start [0x3C, 0x40, 0x02] []
      { State.reset with y := 0x12EF })
      = some [some 0xEF] := by
  decide

theorem test_styh_ST8 :
    regsAfter (start [0x3D, 0x40, 0x02] []
      { State.reset with y := 0x12EF })
      = some [0x0103, 0x0000, 0x0240, 0x0000, 0x0000, 0x0000, 0x12EF] ∧
    bytesAfter [0x0240] (start [0x3D, 0x40, 0x02] []
      { State.reset with y := 0x12EF })
      = some [some 0x12] := by
  decide

theorem test_lxal_LI1 :
    regsAfter (start [0x46] [(0x0240, 0x5C)]
      { State.reset with a := 0xA5A5, x := 0x0240 })
      = some [0x0101, 0x0000, 0x0000, 0xA55C, 0x0000, 0x0240, 0x0000] := by
  decide

theorem test_lxal_LI17 :
    regsAfter (start [0x46] []
      { State.reset with a := 0xA5A5, x := 0x9000 })
      = some [0x0101, 0x0000, 0x0000, 0xA546, 0x0000, 0x9000, 0x0000] := by
  decide

theorem test_lxah_LI2 :
    regsAfter (start [0x47] [(0x0240, 0x5C)]
      { State.reset with a := 0xA5A5, x := 0x0240 })
      = some [0x0101, 0x0000, 0x0000, 0x5CA5, 0x0000, 0x0240, 0x0000] := by
  decide

theorem test_lxbl_LI3 :
    regsAfter (start [0x48] [(0x0240, 0x5C)]
      { State.reset with b := 0xA5A5, x := 0x0240 })
      = some [0x0101, 0x0000, 0x0000, 0x0000, 0xA55C, 0x0240, 0x0000] := by
  decide

theorem test_lxbh_LI4 :
    regsAfter (start [0x49] [(0x0240, 0x5C)]
      { State.reset with b := 0xA5A5, x := 0x0240 })
      = some [0x0101, 0x0000, 0x0000, 0x0000, 0x5CA5, 0x0240, 0x0000] := by
  decide

theorem test_lxxl_LI5 :
    regsAfter (start [0x4A] [(0x0240, 0x5C)]
      { State.reset with x := 0x0240 })
      = some [0x0101, 0x0000, 0x0000, 0x0000, 0x0000, 0x025C, 0x0000] := by
  decide

theorem test_lxxh_LI6 :
    regsAfter (start [0x4B] [(0x0240, 0x5C)]
      { State.reset with x := 0x0240 })
      = some [0x0101, 0x0000, 0x0000, 0x0000, 0x0000, 0x5C40, 0x0000] := by
  decide

theorem test_lxxh_LI19 :
    regsAfter (start [0x4B] [(0x7FFF, 0x00)]
      { State.reset with x := 0x7FFF })
      = some [0x0101, 0x0000, 0x0000, 0x0000, 0x0000, 0x00FF, 0x0000] := by
  decide

theorem test_lxyl_LI7 :
    regsAfter (start [0x4C] [(0x0240, 0x5C)]
      { State.reset with x := 0x0240, y := 0xA5A5 })
      = some [0x0101, 0x0000, 0x0000, 0x0000, 0x0000, 0x0240, 0xA55C] := by
  decide

theorem test_lxyh_LI8 :
    regsAfter (start [0x4D] [(0x0240, 0x5C)]
      { State.reset with x := 0x0240, y := 0xA5A5 })
      = some [0x0101, 0x0000, 0x0000, 0x0000, 0x0000, 0x0240, 0x5CA5] := by
  decide

theorem test_lyal_LI9 :
    regsAfter (start [0x56] [(0x0240, 0x5C)]
      { State.reset with a := 0xA5A5, y := 0x0240 })
      = some [0x0101, 0x0000, 0x0000, 0xA55C, 0x0000, 0x0000, 0x0240] := by
  decide

theorem test_lyal_LI18 :
    regsAfter (start [0x56] []
      { State.reset with a := 0xA5A5, y := 0x0100 })
      = some [0x0101, 0x0000, 0x0000, 0xA556, 0x0000, 0x0000, 0x0100] := by
  decide

theorem test_lyah_LI10 :
    regsAfter (start [0x57] [(0x0240, 0x5C)]
      { State.reset with a := 0xA5A5, y := 0x0240 })
      = some [0x0101, 0x0000, 0x0000, 0x5CA5, 0x0000, 0x0000, 0x0240] := by
  decide

theorem test_lybl_LI11 :
    regsAfter (start [0x58] [(0x0240, 0x5C)]
      { State.reset with b := 0xA5A5, y := 0x0240 })
      = some [0x0101, 0x0000, 0x0000, 0x0000, 0xA55C, 0x0000, 0x0240] := by
  decide

theorem test_lybh_LI12 :
    regsAfter (start [0x59] [(0x0240, 0x5C)]
      { State.reset with b := 0xA5A5, y := 0x0240 })
      = some [0x0101, 0x0000, 0x0000, 0x0000, 0x5CA5, 0x0000, 0x0240] := by
  decide

theorem test_lyxl_LI13 :
    regsAfter (start [0x5A] [(0x0240, 0x5C)]
      { State.reset with x := 0xA5A5, y := 0x0240 })
      = some [0x0101, 0x0000, 0x0000, 0x0000, 0x0000, 0xA55C, 0x0240] := by
  decide

theorem test_lyxh_LI14 :
    regsAfter (start [0x5B] [(0x0240, 0x5C)]
      { State.reset with x := 0xA5A5, y := 0x0240 })
      = some [0x0101, 0x0000, 0x0000, 0x0000, 0x0000, 0x5CA5, 0x0240] := by
  decide

theorem test_lyyl_LI15 :
    regsAfter (start [0x5C] [(0x0240, 0x5C)]
      { State.reset with y := 0x0240 })
      = some [0x0101, 0x0000, 0x0000, 0x0000, 0x0000, 0x0000, 0x025C] := by
  decide

theorem test_lyyh_LI16 :
    regsAfter (start [0x5D] [(0x0240, 0x5C)]
      { State.reset with y := 0x0240 })
      = some [0x0101, 0x0000, 0x0000, 0x0000, 0x0000, 0x0000, 0x5C40] := by
  decide

theorem test_pushal_PUSH1 :
    regsAfter (start [0x66] []
      { State.reset with stk := 0x7FFF, a := 0x12EF })
      = some [0x0101, 0x7FFE, 0x0000, 0x12EF, 0x0000, 0x0000, 0x0000] ∧
    bytesAfter [0x7FFF] (start [0x66] []
      { State.reset with stk := 0x7FFF, a := 0x12EF })
      = some [some 0xEF] := by
  decide

theorem test_pushal_PUSH9 :
    regsAfter (start [0x66] []
      { State.reset with stk := 0x0000, a := 0x00AB })
      = some [0x0101, 0xFFFF, 0x0000, 0x00AB, 0x0000, 0x0000, 0x0000] ∧
    bytesAfter [0x0000] (start [0x66] []
      { State.reset with stk := 0x0000, a := 0x00AB })
      = some [some 0xAB] := by
  decide

theorem test_pushah_PUSH2 :
    regsAfter (start [0x67] []
      { State.reset with stk := 0x7FFF, a := 0x12EF })
      = some [0x0101, 0x7FFE, 0x0000, 0x12EF, 0x0000, 0x0000, 0x0000] ∧
    bytesAfter [0x7FFF] (start [0x67] []
      { State.reset with stk := 0x7FFF, a := 0x12EF })
      = some [some 0x12] := by
  decide

theorem test_pushbl_PUSH3 :
    regsAfter (start [0x68] []
      { State.reset with stk := 0x7FFF, b := 0x12EF })
      = some [0x0101, 0x7FFE, 0x0000, 0x0000, 0x12EF, 0x0000, 0x0000] ∧
    bytesAfter [0x7FFF] (start [0x68] []
      { State.reset with stk := 0x7FFF, b := 0x12EF })
      = some [some 0xEF] := by
  decide

theorem test_pushbh_PUSH4 :
    regsAfter (start [0x69] []
      { State.reset with stk := 0x7FFF, b := 0x12EF })
      = some [0x0101, 0x7FFE, 0x0000, 0x0000, 0x12EF, 0x0000, 0x0000] ∧
    bytesAfter [0x7FFF] (start [0x69] []
      { State.reset with stk := 0x7FFF, b := 0x12EF })
      = some [some 0x12] := by
  decide

theorem test_pushxl_PUSH5 :
    regsAfter (start [0x6A] []
      { State.reset with stk := 0x7FFF, x := 0x12EF })
      = some [0x0101, 0x7FFE, 0x0000, 0x0000, 0x0000, 0x12EF, 0x0000] ∧
    bytesAfter [0x7FFF] (start [0x6A] []
      { State.reset with stk := 0x7FFF, x := 0x12EF })
      = some [some 0xEF] := by
  decide

theorem test_pushxh_PUSH6 :
    regsAfter (start [0x6B] []
      { State.reset with stk := 0x7FFF, x := 0x12EF })
      = some [0x0101, 0x7FFE, 0x0000, 0x0000, 0x0000, 0x12EF, 0x0000] ∧
    bytesAfter [0x7FFF] (start [0x6B] []
      { State.reset with stk := 0x7FFF, x := 0x12EF })
      = some [some 0x12] := by
  decide

theorem test_pushyl_PUSH7 :
    regsAfter (start [0x6C] []
      { State.reset with stk := 0x7FFF, y := 0x12EF })
      = some [0x0101, 0x7FFE, 0x0000, 0x0000, 0x0000, 0x0000, 0x12EF] ∧
    bytesAfter [0x7FFF] (start [0x6C] []
      { State.reset with stk := 0x7FFF, y := 0x12EF })
      = some [some 0xEF] := by
  decide

theorem test_pushyh_PUSH8 :
    regsAfter (start [0x6D] []
      { State.reset with stk := 0x7FFF, y := 0x12EF })
      = some [0x0101, 0x7FFE, 0x0000, 0x0000, 0x0000, 0x0000, 0x12EF] ∧
    bytesAfter [0x7FFF] (start [0x6D] []
      { State.reset with stk := 0x7FFF, y := 0x12EF })
      = some [some 0x12] := by
  decide

theorem test_popal_POP1 :
    regsAfter (start [0x76] [(0x7FFF, 0x5C)]
      { State.reset with stk := 0x7FFE, a := 0xA5A5 })
      = some [0x0101, 0x7FFF, 0x0000, 0xA55C, 0x0000, 0x0000, 0x0000] := by
  decide

theorem test_popal_POP9 :
    regsAfter (start [0x76] [(0x0000, 0x77)]
      { State.reset with stk := 0xFFFF, a := 0xA5A5 })
      = some [0x0101, 0x0000, 0x0000, 0xA577, 0x0000, 0x0000, 0x0000] := by
  decide

theorem test_popah_POP2 :
    regsAfter (start [0x77] [(0x7FFF, 0x5C)]
      { State.reset with stk := 0x7FFE, a := 0xA5A5 })
      = some [0x0101, 0x7FFF, 0x0000, 0x5CA5, 0x0000, 0x0000, 0x0000] := by
  decide

theorem test_popbl_POP3 :
    regsAfter (start [0x78] [(0x7FFF, 0x5C)]
      { State.reset with stk := 0x7FFE, b := 0xA5A5 })
      = some [0x0101, 0x7FFF, 0x0000, 0x0000, 0xA55C, 0x0000, 0x0000] := by
  decide

theorem test_popbh_POP4 :
    regsAfter (start [0x79] [(0x7FFF, 0x5C)]
      { State.reset with stk := 0x7FFE, b := 0xA5A5 })
      = some [0x0101, 0x7FFF, 0x0000, 0x0000, 0x5CA5, 0x0000, 0x0000] := by
  decide

theorem test_popxl_POP5 :
    regsAfter (start [0x7A] [(0x7FFF, 0x5C)]
      { State.reset with stk := 0x7FFE, x := 0xA5A5 })
      = some [0x0101, 0x7FFF, 0x0000, 0x0000, 0x0000, 0xA55C, 0x0000] := by
  decide

theorem test_popxh_POP6 :
    regsAfter (start [0x7B] [(0x7FFF, 0x5C)]
      { State.reset with stk := 0x7FFE, x := 0xA5A5 })
      = some [0x0101, 0x7FFF, 0x0000, 0x0000, 0x0000, 0x5CA5, 0x0000] := by
  decide

theorem test_popyl_POP7 :
    regsAfter (start [0x7C] [(0x7FFF, 0x5C)]
      { State.reset with stk := 0x7FFE, y := 0xA5A5 })
      = some [0x0101, 0x7FFF, 0x0000, 0x0000, 0x0000, 0x0000, 0xA55C] := by
  decide

theorem test_popyh_POP8 :
    regsAfter (start [0x7D] [(0x7FFF, 0x5C)]
      { State.reset with stk := 0x7FFE, y := 0xA5A5 })
      = some [0x0101, 0x7FFF, 0x0000, 0x0000, 0x0000, 0x0000, 0x5CA5] := by
  decide

theorem test_add_ALU1 :
    regsAfter (start [0x81] []
      { State.reset with a := 0x0003, b := 0x0002 })
      = some [0x0101, 0x0000, 0x0000, 0x0005, 0x0002, 0x0000, 0x0000] := by
  decide

theorem test_add_ALU2 :
    regsAfter (start [0x81] []
      { State.reset with a := 0xFFFF, b := 0x0001 })
      = some [0x0101, 0x0000, 0x0000, 0x0000, 0x0001, 0x0000, 0x0000] := by
  decide

theorem test_sub_ALU5 :
    regsAfter (start [0x82] []
      { State.reset with a := 0x0005, b := 0x0003 })
      = some [0x0101, 0x0000, 0x0000, 0x0002, 0x0003, 0x0000, 0x0000] := by
  decide

theorem test_sub_ALU6 :
    regsAfter (start [0x82] []
      { State.reset with a := 0x0000, b := 0x0001 })
      = some [0x0101, 0x0000, 0x0000, 0xFFFF, 0x0001, 0x0000, 0x0000] := by
  decide

theorem test_mul_ALU8 :
    regsAfter (start [0x83] []
      { State.reset with a := 0x0007, b := 0x0006 })
      = some [0x0101, 0x0000, 0x0000, 0x002A, 0x0006, 0x0000, 0x0000] := by
  decide

theorem test_mul_ALU9 :
    regsAfter (start [0x83] []
      { State.reset with a := 0xFFFF, b := 0xFFFF })
      = some [0x0101, 0x0000, 0x0000, 0x0001, 0xFFFF, 0x0000, 0x0000] := by
  decide

theorem test_div_ALU15 :
    regsAfter (start [0x84] []
      { State.reset with a := 0x8000, b := 0xFFFF })
      = some [0x0101, 0x0000, 0x0000, 0x0000, 0xFFFF, 0x0000, 0x0000] := by
  decide

theorem test_div_ALU17 :
    regsAfter (start [0x84] []
      { State.reset with a := 0x0007, b := 0x0000 })
      = some [0x0100, 0x0000, 0x0000, 0x0007, 0x0000, 0x0000, 0x0000] ∧
    logAfter (start [0x84] []
      { State.reset with a := 0x0007, b := 0x0000 })
      = some [⟨.divideByZero, 0x84, 0x0100⟩] := by
  decide

theorem test_incx_PT1 :
    regsAfter (start [0x88] []
      { State.reset with x := 0x00FF })
      = some [0x0101, 0x0000, 0x0000, 0x0000, 0x0000, 0x0100, 0x0000] := by
  decide

theorem test_incx_PT2 :
    regsAfter (start [0x88] []
      { State.reset with x := 0xFFFF })
      = some [0x0101, 0x0000, 0x0000, 0x0000, 0x0000, 0x0000, 0x0000] := by
  decide

theorem test_decx_PT3 :
    regsAfter (start [0x89] []
      { State.reset with x := 0x0100 })
      = some [0x0101, 0x0000, 0x0000, 0x0000, 0x0000, 0x00FF, 0x0000] := by
  decide

theorem test_decx_PT4 :
    regsAfter (start [0x89] []
      { State.reset with x := 0x0000 })
      = some [0x0101, 0x0000, 0x0000, 0x0000, 0x0000, 0xFFFF, 0x0000] := by
  decide

theorem test_incy_PT5 :
    regsAfter (start [0x8A] []
      { State.reset with y := 0x7FFF })
      = some [0x0101, 0x0000, 0x0000, 0x0000, 0x0000, 0x0000, 0x8000] := by
  decide

theorem test_incy_PT6 :
    regsAfter (start [0x8A] []
      { State.reset with y := 0xFFFF })
      = some [0x0101, 0x0000, 0x0000, 0x0000, 0x0000, 0x0000, 0x0000] := by
  decide

theorem test_decy_PT7 :
    regsAfter (start [0x8B] []
      { State.reset with y := 0x0001 })
      = some [0x0101, 0x0000, 0x0000, 0x0000, 0x0000, 0x0000, 0x0000] := by
  decide

theorem test_decy_PT8 :
    regsAfter (start [0x8B] []
      { State.reset with y := 0x0000 })
      = some [0x0101, 0x0000, 0x0000, 0x0000, 0x0000, 0x0000, 0xFFFF] := by
  decide

theorem test_jmpr_JR1 :
    regsAfter (start [0x90, 0x10] [] State.reset)
      = some [0x0112, 0x0000, 0x0000, 0x0000, 0x0000, 0x0000, 0x0000] := by
  decide

theorem test_jmpr_JR2 :
    regsAfter (start [0x90, 0xFE] [] State.reset)
      = some [0x0100, 0x0000, 0x0000, 0x0000, 0x0000, 0x0000, 0x0000] := by
  decide

theorem test_jeqr_JR4 :
    regsAfter (start [0x91, 0xFB] []
      { State.reset with a := 0x0005, b := 0x0006 })
      = some [0x0102, 0x0000, 0x0000, 0x0005, 0x0006, 0x0000, 0x0000] := by
  decide

theorem test_jeqr_JR6 :
    regsAfter (start [0x91, 0x80] []
      { State.reset with a := 0xFFFF, b := 0xFFFF })
      = some [0x0082, 0x0000, 0x0000, 0xFFFF, 0xFFFF, 0x0000, 0x0000] := by
  decide

theorem test_jgtr_JR9 :
    regsAfter (start [0x92, 0x10] []
      { State.reset with a := 0x0002, b := 0x0003 })
      = some [0x0102, 0x0000, 0x0000, 0x0002, 0x0003, 0x0000, 0x0000] := by
  decide

theorem test_jgtr_JR7 :
    regsAfter (start [0x92, 0x10] []
      { State.reset with a := 0x8000, b := 0x7FFF })
      = some [0x0112, 0x0000, 0x0000, 0x8000, 0x7FFF, 0x0000, 0x0000] := by
  decide

theorem test_jltr_JR11 :
    regsAfter (start [0x93, 0xF0] []
      { State.reset with a := 0x0009, b := 0x0002 })
      = some [0x0102, 0x0000, 0x0000, 0x0009, 0x0002, 0x0000, 0x0000] := by
  decide

theorem test_jltr_JR10 :
    regsAfter (start [0x93, 0xF0] []
      { State.reset with a := 0x7FFF, b := 0x8000 })
      = some [0x00F2, 0x0000, 0x0000, 0x7FFF, 0x8000, 0x0000, 0x0000] := by
  decide

theorem test_jmp_JA1 :
    regsAfter (start [0xA0, 0x00, 0x20] []
      { State.reset with a := 0x0001, b := 0x0002 })
      = some [0x2000, 0x0000, 0x2000, 0x0001, 0x0002, 0x0000, 0x0000] := by
  decide

theorem test_jmp_JA8 :
    regsAfter (start [0xA0, 0x00, 0x00] [] State.reset)
      = some [0x0000, 0x0000, 0x0000, 0x0000, 0x0000, 0x0000, 0x0000] := by
  decide

theorem test_jeq_JA2 :
    regsAfter (start [0xA1, 0x00, 0x20] []
      { State.reset with a := 0x0007, b := 0x0007 })
      = some [0x2000, 0x0000, 0x2000, 0x0007, 0x0007, 0x0000, 0x0000] := by
  decide

theorem test_jeq_JA3 :
    regsAfter (start [0xA1, 0x00, 0x20] []
      { State.reset with a := 0x0007, b := 0x0008 })
      = some [0x0103, 0x0000, 0x2000, 0x0007, 0x0008, 0x0000, 0x0000] := by
  decide

theorem test_jgt_JA4 :
    regsAfter (start [0xA2, 0x00, 0x20] []
      { State.reset with a := 0xFFFF, b := 0x0001 })
      = some [0x2000, 0x0000, 0x2000, 0xFFFF, 0x0001, 0x0000, 0x0000] := by
  decide

theorem test_jgt_JA5 :
    regsAfter (start [0xA2, 0x00, 0x20] []
      { State.reset with a := 0x0001, b := 0x0001 })
      = some [0x0103, 0x0000, 0x2000, 0x0001, 0x0001, 0x0000, 0x0000] := by
  decide

theorem test_jlt_JA6 :
    regsAfter (start [0xA3, 0x00, 0x20] []
      { State.reset with a := 0x0001, b := 0xFFFF })
      = some [0x2000, 0x0000, 0x2000, 0x0001, 0xFFFF, 0x0000, 0x0000] := by
  decide

theorem test_jlt_JA7 :
    regsAfter (start [0xA3, 0x00, 0x20] []
      { State.reset with a := 0x0002, b := 0x0002 })
      = some [0x0103, 0x0000, 0x2000, 0x0002, 0x0002, 0x0000, 0x0000] := by
  decide

theorem test_call_CR1 :
    regsAfter (start [0xA8, 0x00, 0x02] []
      { State.reset with stk := 0x7FFF })
      = some [0x0200, 0x7FFD, 0x0200, 0x0000, 0x0000, 0x0000, 0x0000] ∧
    bytesAfter [0x7FFE, 0x7FFF] (start [0xA8, 0x00, 0x02] []
      { State.reset with stk := 0x7FFF })
      = some [some 0x03, some 0x01] := by
  decide

theorem test_call_CR2 :
    regsAfter (start [0xA8, 0x34, 0x12] []
      { State.reset with stk := 0x0000 })
      = some [0x1234, 0xFFFE, 0x1234, 0x0000, 0x0000, 0x0000, 0x0000] ∧
    bytesAfter [0x0000] (start [0xA8, 0x34, 0x12] []
      { State.reset with stk := 0x0000 })
      = some [some 0x01] := by
  decide

theorem test_ret_CR3 :
    regsAfter (start [0xA9] [(0x7FFE, 0x03), (0x7FFF, 0x01)]
      { State.reset with stk := 0x7FFD })
      = some [0x0103, 0x7FFF, 0x0103, 0x0000, 0x0000, 0x0000, 0x0000] := by
  decide

theorem test_ret_CR5 :
    regsAfter (start [0xA9] []
      { State.reset with stk := 0x8FFF })
      = some [0xA9A9, 0x9001, 0xA9A9, 0x0000, 0x0000, 0x0000, 0x0000] := by
  decide

theorem test_tab_T1 :
    regsAfter (start [0xB8] []
      { State.reset with a := 0x1111, b := 0x2222, x := 0x3333, y := 0x4444 })
      = some [0x0101, 0x0000, 0x0000, 0x1111, 0x1111, 0x3333, 0x4444] := by
  decide

theorem test_tax_T2 :
    regsAfter (start [0xBA] []
      { State.reset with a := 0x1111, b := 0x2222, x := 0x3333, y := 0x4444 })
      = some [0x0101, 0x0000, 0x0000, 0x1111, 0x2222, 0x1111, 0x4444] := by
  decide

theorem test_tay_T3 :
    regsAfter (start [0xBC] []
      { State.reset with a := 0x1111, b := 0x2222, x := 0x3333, y := 0x4444 })
      = some [0x0101, 0x0000, 0x0000, 0x1111, 0x2222, 0x3333, 0x1111] := by
  decide

theorem test_tba_T4 :
    regsAfter (start [0xC6] []
      { State.reset with a := 0x1111, b := 0x2222, x := 0x3333, y := 0x4444 })
      = some [0x0101, 0x0000, 0x0000, 0x2222, 0x2222, 0x3333, 0x4444] := by
  decide

theorem test_tbx_T5 :
    regsAfter (start [0xCA] []
      { State.reset with a := 0x1111, b := 0x2222, x := 0x3333, y := 0x4444 })
      = some [0x0101, 0x0000, 0x0000, 0x1111, 0x2222, 0x2222, 0x4444] := by
  decide

theorem test_tby_T6 :
    regsAfter (start [0xCC] []
      { State.reset with a := 0x1111, b := 0x2222, x := 0x3333, y := 0x4444 })
      = some [0x0101, 0x0000, 0x0000, 0x1111, 0x2222, 0x3333, 0x2222] := by
  decide

theorem test_txa_T7 :
    regsAfter (start [0xD6] []
      { State.reset with a := 0x1111, b := 0x2222, x := 0x3333, y := 0x4444 })
      = some [0x0101, 0x0000, 0x0000, 0x3333, 0x2222, 0x3333, 0x4444] := by
  decide

theorem test_txb_T8 :
    regsAfter (start [0xD8] []
      { State.reset with a := 0x1111, b := 0x2222, x := 0x3333, y := 0x4444 })
      = some [0x0101, 0x0000, 0x0000, 0x1111, 0x3333, 0x3333, 0x4444] := by
  decide

theorem test_txy_T9 :
    regsAfter (start [0xDC] []
      { State.reset with a := 0x1111, b := 0x2222, x := 0x3333, y := 0x4444 })
      = some [0x0101, 0x0000, 0x0000, 0x1111, 0x2222, 0x3333, 0x3333] := by
  decide

theorem test_tya_T10 :
    regsAfter (start [0xE6] []
      { State.reset with a := 0x1111, b := 0x2222, x := 0x3333, y := 0x4444 })
      = some [0x0101, 0x0000, 0x0000, 0x4444, 0x2222, 0x3333, 0x4444] := by
  decide

theorem test_tyb_T11 :
    regsAfter (start [0xE8] []
      { State.reset with a := 0x1111, b := 0x2222, x := 0x3333, y := 0x4444 })
      = some [0x0101, 0x0000, 0x0000, 0x1111, 0x4444, 0x3333, 0x4444] := by
  decide

theorem test_tyx_T12 :
    regsAfter (start [0xEA] []
      { State.reset with a := 0x1111, b := 0x2222, x := 0x3333, y := 0x4444 })
      = some [0x0101, 0x0000, 0x0000, 0x1111, 0x2222, 0x4444, 0x4444] := by
  decide

theorem test_illegal_H2 :
    regsAfter (start [0x00] [] State.reset)
      = some [0x0100, 0x0000, 0x0000, 0x0000, 0x0000, 0x0000, 0x0000] ∧
    logAfter (start [0x00] [] State.reset)
      = some [⟨.illegalOpcode, 0x00, 0x0100⟩] := by
  decide

theorem test_illegal_H3 :
    regsAfter (start [0xFF] [] State.reset)
      = some [0x0100, 0x0000, 0x0000, 0x0000, 0x0000, 0x0000, 0x0000] ∧
    logAfter (start [0xFF] [] State.reset)
      = some [⟨.illegalOpcode, 0xFF, 0x0100⟩] := by
  decide

theorem test_illegal_H4 :
    regsAfter (start [0xB6] [] State.reset)
      = some [0x0100, 0x0000, 0x0000, 0x0000, 0x0000, 0x0000, 0x0000] ∧
    logAfter (start [0xB6] [] State.reset)
      = some [⟨.illegalOpcode, 0xB6, 0x0100⟩] := by
  decide

theorem test_illegal_H5 :
    regsAfter (start [0x10, 0x34, 0x12] [] State.reset)
      = some [0x0100, 0x0000, 0x0000, 0x0000, 0x0000, 0x0000, 0x0000] ∧
    logAfter (start [0x10, 0x34, 0x12] [] State.reset)
      = some [⟨.illegalOpcode, 0x10, 0x0100⟩] := by
  decide

/-! ## Vectors on other platforms or at other addresses -/

/-- SET6: the operand bytes wrap past 0xFFFF. -/
theorem test_seta_SET6 :
    regsAfter { State.pokeBytes [0x16, 0x34, 0x12] 0xFFFE
        (State.resetOn [⟨⟨0x0000, 0x8000, true⟩, []⟩, ⟨⟨0xFF00, 0x0100, true⟩, []⟩]) with pc := 0xFFFE }
      = some [0x0001, 0x0000, 0x0000, 0x1234, 0x0000, 0x0000, 0x0000] := by
  decide

/-- SET7: unclaimed operand addresses repeat the opcode byte. -/
theorem test_seta_SET7 :
    regsAfter { State.pokeBytes [0x16] 0x7FFF State.reset with pc := 0x7FFF }
      = some [0x8002, 0x0000, 0x0000, 0x1616, 0x0000, 0x0000, 0x0000] := by
  decide

/-- ST12: a read-only device loses the byte, which stays on the bus. -/
theorem test_stal_ST12 :
    (match step { State.pokeBytes [0x36, 0x40, 0x02] 0x4100
        (State.resetOn [⟨⟨0x0000, 0x4000, false⟩, []⟩, ⟨⟨0x4000, 0x4000, true⟩, []⟩]) with
        pc := 0x4100, a := 0x12EF } with
      | .next t => some (t.memRead 0x0240, t.adr, t.pc, t.bus.data)
      | _ => none)
      = some (some 0x00, 0x0240, 0x4103, 0xEF) := by
  decide

/-- JR14: a backward jump wraps past 0x0000. -/
theorem test_jmpr_JR14 :
    regsAfter { State.pokeBytes [0x90, 0xF0] 0x0004 State.reset with pc := 0x0004 }
      = some [0xFFF6, 0x0000, 0x0000, 0x0000, 0x0000, 0x0000, 0x0000] := by
  decide

/-- BUS2, edge 3: the high byte of the return address is on the bus as a write. -/
theorem test_call_BUS2 :
    (match State.edges 4 (start [0xA8, 0x00, 0x02] [] { State.reset with stk := 0x7FFF }) with
      | .next t => some (t.bus, [t.pc, t.stk, t.adr], [t.opcode, t.state])
      | _ => none)
      = some (⟨0x7FFF, 0x01, false⟩, [0x0102, 0x7FFE, 0x0200], [0xA8, 3]) := by
  decide

/-! ## The host's interface -/

theorem test_table_words :
    decodeTableWord 8 0x16 = some (.seta 0x0000) ∧ decodeTableWord 24 0x123416 = some (.seta 0x1234) ∧
    decodeTableWord 8 0xA9 = some .ret ∧ decodeTableWord 8 0x00 = none := by
  decide

theorem test_fetch_word :
    regsAfter { State.reset.withFetchWord 24 0x123416 with x := 0x0001 }
      = some [0x0003, 0x0000, 0x0000, 0x1234, 0x0000, 0x0001, 0x0000] := by
  decide

/-! ## States that meet the hypotheses of the obligations -/

/-- A core about to run exec cycle `n` of opcode byte `op`, at the highest address. -/
def flight (op n : Byte) : State :=
  { State.reset with
    pc := 0xFFFF, fetch := false, state := n
    opcode := if n = 0 then 0 else op, bus := ⟨0xFFFF, op, true⟩ }

/-- The hypothesis of every clause about one exec cycle, at any opcode byte and cycle. -/
theorem witness_inFlight (op n : Byte) : InFlight (flight op n) op n := by
  refine ⟨rfl, rfl, rfl, ?_⟩
  by_cases h : n = 0
  · rw [if_pos h]
    exact ⟨if_pos h, rfl⟩
  · rw [if_neg h]
    exact if_neg h

/-- The hypothesis of every clause about a whole instruction. -/
theorem witness_atBoundary : AtBoundary State.reset ∧ AtBoundary { State.reset with pc := 0xFFFF } :=
  ⟨⟨rfl, rfl⟩, ⟨rfl, rfl⟩⟩

/-- A state after reset with code placed at 0x0000. -/
def loaded (code : List Byte) : State := State.pokeBytes code 0x0000 State.reset

/-- The opcode 0x84 at 0x0000 in the later of two devices that claim it. -/
def overlapping : State :=
  State.resetOn [⟨⟨0x0000, 0x4000, true⟩, []⟩, ⟨⟨0x0000, 0x0001, true⟩, [(0, 0x84)]⟩]

theorem witness_DecodeInvertsEncode :
    decode (encode (.seta 0xFFFF) ++ [0x99]) = .ok (.seta 0xFFFF, [0x99]) := rfl

theorem witness_EncodeInvertsDecode :
    decode [0x16, 0xFF, 0xFF, 0x99] = .ok (.seta 0xFFFF, [0x99]) ∧ decode [0x01] = .ok (.halt, []) :=
  ⟨rfl, rfl⟩

/-- The ends of the ranges of illegal bytes, and a legal byte beside each. -/
theorem witness_IllegalOpcodeHaltsTheCore :
    (Illegal 0x00 ∧ ¬ Illegal 0x01 ∧ Illegal 0x11 ∧ ¬ Illegal 0x12 ∧ Illegal 0xB6 ∧ Illegal 0xFF) ∧
    InFlight (flight 0x00 0) 0x00 0 ∧ InFlight (flight 0xFF 0) 0xFF 0 ∧
    AtBoundary (loaded [0xFF]) ∧ (loaded [0xFF]).platformOk = true ∧ Illegal (byte0 (loaded [0xFF])) := by
  refine ⟨?_, witness_inFlight _ _, witness_inFlight _ _, ⟨rfl, rfl⟩, by decide, ?_⟩ <;>
    simp only [Illegal] <;> decide

theorem witness_BusOperationsLatch :
    { State.reset with devices := [⟨⟨0xFF00, 0x0100, true⟩, []⟩] }.devices
      = [⟨⟨0xFF00, 0x0100, true⟩, []⟩] ∧
    Device.claims ⟨⟨0xFF00, 0x0100, true⟩, []⟩ 0xFFFF = true := by
  decide

/-- The last address of a window and the first one after it, for a window at 0xFF00 of 0x80 bytes: the
two ranges of offsets exclude each other. -/
theorem witness_DeviceContract :
    (0xFF7F + 65536 - 0xFF00) % 65536 < (0x0080 : Word).toNat ∧
    (0x0080 : Word).toNat ≤ (0xFF80 + 65536 - 0xFF00) % 65536 ∧
    (0x0080 : Word).toNat ≤ (0xFEFF + 65536 - 0xFF00) % 65536 := by
  decide

theorem witness_ReadIsAnsweredOrStale :
    (State.reset.busRead 0x7FFF).bus.readIntent = true ∧
    (State.reset.busRead 0x7FFF).memRead 0x7FFF = some 0x00 ∧
    (State.reset.busRead 0x8000).memRead 0x8000 = none := by
  decide

theorem witness_WriteIsStoredOrLost :
    (State.reset.busWrite 0x7FFF 0x5C).bus.readIntent = false ∧ State.reset.writableAt 0x7FFF = true ∧
    State.reset.writableAt 0x8000 = false := by
  decide

theorem witness_OneDeviceClaimsAnAddress :
    State.reset.platformOk = true ∧
    ∃ d ∈ State.reset.devices, d.claims 0x7FFF = true ∧ d.claims 0x8000 = false := by
  decide

theorem witness_HaltedTickChangesNothing : { State.reset with halt := true }.halt = true := rfl

theorem witness_StepRunsTheDecodedInstruction :
    AtBoundary (loaded [0x16, 0x34, 0x12]) ∧ (loaded [0x16, 0x34, 0x12]).platformOk = true ∧
    decode [byte0 (loaded [0x16, 0x34, 0x12]), byte1 (loaded [0x16, 0x34, 0x12]),
      byte2 (loaded [0x16, 0x34, 0x12])] = .ok (.seta 0x1234, []) ∧
    Instr.wf (.seta 0x1234) = true :=
  ⟨⟨rfl, rfl⟩, by decide, rfl, rfl⟩

/-- Both clauses, each with the last edge before its boundary: a legal opcode and an illegal one, on a
well-formed platform, and the legal one on a platform that the step refuses. -/
theorem witness_StepIsItsEdges :
    AtBoundary (loaded [0x84]) ∧ (loaded [0x84]).platformOk = true ∧
    decode [byte0 (loaded [0x84]), byte1 (loaded [0x84]), byte2 (loaded [0x84])]
      = .ok (.div, [0x00, 0x00]) ∧
    (1 < ticksOf .div ∧ ∃ t, State.edges 1 (loaded [0x84]) = .next t) ∧
    (decode [byte0 State.reset, byte1 State.reset, byte2 State.reset] = .error (.illegalOpcode 0x00) ∧
      ∃ t, State.edges 1 State.reset = .next t) ∧
    AtBoundary overlapping ∧ overlapping.platformOk = false ∧
    decode [byte0 overlapping, byte1 overlapping, byte2 overlapping] = .ok (.div, [0x00, 0x00]) :=
  ⟨⟨rfl, rfl⟩, by decide, rfl, ⟨by decide, ⟨_, rfl⟩⟩, ⟨rfl, ⟨_, rfl⟩⟩, ⟨rfl, rfl⟩, by decide, rfl⟩

theorem witness_StepCompletesAnInstructionInFlight :
    AtBoundary (loaded [0x16, 0x34, 0x12]) ∧ (loaded [0x16, 0x34, 0x12]).platformOk = true ∧
    ∃ t, State.edges 1 (loaded [0x16, 0x34, 0x12]) = .next t ∧
      ∀ k u, 0 < k → k ≤ 1 → State.edges k (loaded [0x16, 0x34, 0x12]) = .next u →
        u.fetch = false ∧ u.halt = false := by
  refine ⟨⟨rfl, rfl⟩, by decide, _, rfl, ?_⟩
  intro k u h0 h1 he
  obtain rfl : k = 1 := by omega
  cases he
  exact ⟨rfl, rfl⟩

/-- Both cases of the reset of the bus: no device at 0x0000, and a device there. -/
theorem witness_BusResetIsVisibleInOneCase :
    platformWf [⟨0x0001, 0xFFFF, true⟩] = true ∧
    (State.resetOn [⟨⟨0x0001, 0xFFFF, true⟩, []⟩]).memRead 0x0000 = none ∧
    platformWf [⟨0x0000, 0x0001, true⟩] = true ∧
    (State.resetOn [⟨⟨0x0000, 0x0001, true⟩, []⟩]).memRead 0x0000 ≠ none := by
  decide

theorem witness_InvariantHoldsAtReset :
    platformWf [⟨0x0000, 0x4000, false⟩, ⟨0x4000, 0x4000, true⟩] = true ∧
    Device.storeOk ⟨⟨0x0000, 0x4000, false⟩, [(0x3FFF, 0x01)]⟩ = true := by
  decide

/-- A state with the invariant whose edge and step answer a next state. -/
theorem witness_invariant :
    (loaded [0x81]).Inv ∧ (∃ t, (loaded [0x81]).edge = .next t) ∧ ∃ t, step (loaded [0x81]) = .next t := by
  refine ⟨⟨by decide, ?_, rfl, rfl, rfl⟩, ⟨_, rfl⟩, ⟨_, rfl⟩⟩
  show ∀ d ∈ (loaded [0x81]).devices, d.storeOk = true
  decide

/-- The state a number of edges leads to. -/
def afterEdges (n : Nat) (s : State) : State :=
  match State.edges n s with
  | .next t => t
  | _ => s

/-- What the in-flight case of the invariant asks of a core about to run a later exec cycle. -/
theorem inv_of_inFlight {s : State} (i : Instr) (hp : s.platformOk = true)
    (hs : ∀ d ∈ s.devices, d.storeOk = true) (hh : s.halt = false) (hl : s.log = [])
    (hf : s.fetch = false) (hk : 1 ≤ s.state.toNat ∧ s.state.toNat ≤ 3)
    (hi : opcodeInstr s.opcode = some i) (hc : s.state.toNat < execCycles i)
    (hb : s.HoldsBusOp (s.lastBusOp i s.state.toNat)) : s.Inv := by
  refine ⟨hp, hs, ?_⟩
  unfold State.ControlOk
  rw [if_neg (by simp [hh]), if_neg (by simp [hf])]
  exact ⟨hl, .inr ⟨hk.1, hk.2, i, hi, hc, hb⟩⟩

/-- States in flight with the invariant, with the edge that leads into each: LDAL 0x0240 about to sample
its operand's low byte and then its data byte, and CALL 0x0200 whose first stack write the devices have
stored. -/
theorem witness_invariant_in_flight :
    let load := start [0x26, 0x40, 0x02] [(0x0240, 0x5C)] State.reset
    let call := start [0xA8, 0x00, 0x02] [] { State.reset with stk := 0x7FFF }
    ((afterEdges 1 load).Inv ∧ (afterEdges 1 load).opcode = 0) ∧
    ((afterEdges 2 load).Inv ∧ (afterEdges 2 load).bus = ⟨0x0101, 0x40, true⟩) ∧
    ((afterEdges 4 load).Inv ∧ (afterEdges 4 load).bus = ⟨0x0240, 0x5C, true⟩) ∧
    ((afterEdges 4 call).Inv ∧ (afterEdges 4 call).bus = ⟨0x7FFF, 0x01, false⟩) := by
  refine ⟨⟨⟨by decide, ?_, rfl, .inl ⟨rfl, rfl, ⟨rfl, rfl⟩, rfl⟩⟩, rfl⟩,
    ⟨inv_of_inFlight (.ldal 0) (by decide) ?_ rfl rfl rfl (by decide) rfl (by decide)
      ⟨⟨rfl, rfl⟩, rfl⟩, rfl⟩,
    ⟨inv_of_inFlight (.ldal 0) (by decide) ?_ rfl rfl rfl (by decide) rfl (by decide)
      ⟨⟨rfl, rfl⟩, rfl⟩, rfl⟩,
    ⟨inv_of_inFlight (.call 0) (by decide) ?_ rfl rfl rfl (by decide) rfl (by decide)
      ⟨rfl, fun _ => rfl⟩, rfl⟩⟩
  · show ∀ d ∈ State.devices _, Device.storeOk d = true
    decide
  all_goals decide

theorem witness_HalfWriteKeepsTheOtherHalf : Reg.pc ≠ Reg.y := by decide

theorem witness_FetchTickRequestsTheOpcode : AtBoundary { State.reset with pc := 0xFFFF } :=
  witness_atBoundary.2

theorem witness_EveryEdgeKeepsTheInvariant :
    (loaded [0x81]).Inv ∧ ∃ t, (loaded [0x81]).edge = .next t :=
  ⟨witness_invariant.1, witness_invariant.2.1⟩

theorem witness_EveryStepKeepsTheInvariant :
    (loaded [0x81]).Inv ∧ ∃ t, step (loaded [0x81]) = .next t :=
  ⟨witness_invariant.1, witness_invariant.2.2⟩

theorem witness_EveryStateHasANextStep : (loaded [0x81]).Inv := witness_invariant.1

theorem witness_StepsKeepThePlatform : ∃ t, step (loaded [0x81]) = .next t := witness_invariant.2.2

theorem witness_HaltStopsTheCore :
    InFlight (flight 0x01 0) 0x01 0 ∧ AtBoundary State.reset ∧ ∃ t, exec .halt State.reset = .next t :=
  ⟨witness_inFlight _ _, ⟨rfl, rfl⟩, _, rfl⟩

/-- A halted core: the state that HALT at 0x0000 leaves. -/
def haltedState : State :=
  { loaded [0x01] with
    opcode := 0x01, state := 1, fetch := false, halt := true, bus := ⟨0x0000, 0x01, true⟩ }

theorem witness_HaltedIsAbsorbing :
    haltedState.Inv ∧ haltedState.halt = true ∧ haltedState.platformOk = true := by
  refine ⟨⟨by decide, ?_, rfl, rfl, rfl, ⟨⟨rfl, rfl⟩, rfl⟩, .inl ⟨rfl, rfl⟩⟩, rfl, by decide⟩
  show ∀ d ∈ haltedState.devices, d.storeOk = true
  decide

theorem witness_OnlyHaltAndTheTwoFaultsStop :
    (loaded [0x84]).Inv ∧ AtBoundary (loaded [0x84]) ∧ ∃ t, step (loaded [0x84]) = .next t := by
  refine ⟨⟨by decide, ?_, rfl, rfl, rfl⟩, ⟨rfl, rfl⟩, ⟨_, rfl⟩⟩
  show ∀ d ∈ (loaded [0x84]).devices, d.storeOk = true
  decide

/-- A window one byte past the top, and two devices that claim one address. -/
theorem witness_IllFormedPlatformIsRefused :
    (0xFF00 : Word).toNat + (0x0101 : Word).toNat > 65536 ∧
    Device.claims ⟨⟨0x0000, 0x4000, true⟩, []⟩ 0x3FFF = true ∧
    Device.claims ⟨⟨0x3FFF, 0x0001, true⟩, []⟩ 0x3FFF = true := by
  decide

theorem witness_OnlyStoresPushesAndCallsChangeMemory :
    (∃ t, exec .add State.reset = .next t) ∧ (∀ e ∈ storeTable, ∀ w, Instr.add ≠ e.2.1 w) ∧
    (∀ e ∈ pushTable, Instr.add ≠ e.2.1) ∧ ∀ w, Instr.add ≠ .call w :=
  ⟨⟨_, rfl⟩, by simp [storeTable], by simp [pushTable], by simp⟩

theorem witness_StackPointerIsNotReadable :
    (∀ e ∈ pushTable, Instr.setstk 0x7FFF ≠ e.2.1) ∧ (∀ e ∈ popTable, Instr.setstk 0x7FFF ≠ e.2.1) ∧
    (∀ w, Instr.setstk 0x7FFF ≠ .call w) ∧ Instr.setstk 0x7FFF ≠ .ret :=
  ⟨by simp [pushTable], by simp [popTable], by simp, by simp⟩

/-- One row of each table, for the statements about families; their other hypotheses are met by
`witness_inFlight` and `witness_atBoundary`. -/
theorem witness_tables :
    (0x12, Instr.setstk, Reg.stk) ∈ setTable ∧ (0x27, Instr.ldah, ⟨.a, .hi⟩) ∈ loadTable ∧
    (0x3D, Instr.styh, ⟨.y, .hi⟩) ∈ storeTable ∧ (0x4B, Instr.lxxh, .x, ⟨.x, .hi⟩) ∈ indirectTable ∧
    (0x81, Instr.add, (· + ·)) ∈ aluTable ∧ (0x89, Instr.decx, .x, -1) ∈ pointerTable ∧
    (0x93, Instr.jltr, Cond.less) ∈ relJumpTable ∧ (0xA2, Instr.jgt, Cond.greater) ∈ absJumpTable ∧
    (0x66, Instr.pushal, ⟨.a, .lo⟩) ∈ pushTable ∧ (0x76, Instr.popal, ⟨.a, .lo⟩) ∈ popTable ∧
    (0xDC, Instr.txy, .x, .y) ∈ transferTable := by
  simp [setTable, loadTable, storeTable, indirectTable, aluTable, pointerTable, relJumpTable,
    absJumpTable, pushTable, popTable, transferTable]

theorem witness_SetWritesItsRegister :
    (0x12, Instr.setstk, Reg.stk) ∈ setTable ∧ InFlight (flight 0x12 0) 0x12 0 ∧ InFlight (flight 0x12 1) 0x12 1 ∧ InFlight (flight 0x12 2) 0x12 2 ∧
    AtBoundary State.reset :=
  ⟨witness_tables.1, witness_inFlight _ _, witness_inFlight _ _, witness_inFlight _ _, ⟨rfl, rfl⟩⟩

theorem witness_LoadReadsTheAbsoluteAddress :
    (0x27, Instr.ldah, ⟨.a, .hi⟩) ∈ loadTable ∧ InFlight (flight 0x27 0) 0x27 0 ∧ InFlight (flight 0x27 1) 0x27 1 ∧ InFlight (flight 0x27 2) 0x27 2 ∧ InFlight (flight 0x27 3) 0x27 3 ∧
    AtBoundary State.reset :=
  ⟨witness_tables.2.1, witness_inFlight _ _, witness_inFlight _ _, witness_inFlight _ _, witness_inFlight _ _, ⟨rfl, rfl⟩⟩

theorem witness_StoreWritesTheAbsoluteAddress :
    (0x3D, Instr.styh, ⟨.y, .hi⟩) ∈ storeTable ∧ InFlight (flight 0x3D 0) 0x3D 0 ∧ InFlight (flight 0x3D 1) 0x3D 1 ∧ InFlight (flight 0x3D 2) 0x3D 2 ∧
    AtBoundary State.reset :=
  ⟨witness_tables.2.2.1, witness_inFlight _ _, witness_inFlight _ _, witness_inFlight _ _, ⟨rfl, rfl⟩⟩

theorem witness_IndirectLoadReadsThePointer :
    (0x4B, Instr.lxxh, .x, ⟨.x, .hi⟩) ∈ indirectTable ∧ InFlight (flight 0x4B 0) 0x4B 0 ∧ InFlight (flight 0x4B 1) 0x4B 1 ∧
    AtBoundary State.reset :=
  ⟨witness_tables.2.2.2.1, witness_inFlight _ _, witness_inFlight _ _, ⟨rfl, rfl⟩⟩

theorem witness_ArithmeticWrapsModulo65536 :
    (0x81, Instr.add, (· + ·)) ∈ aluTable ∧ InFlight (flight 0x81 0) 0x81 0 ∧
    AtBoundary State.reset :=
  ⟨witness_tables.2.2.2.2.1, witness_inFlight _ _, ⟨rfl, rfl⟩⟩

theorem witness_PointerStepsWrap :
    (0x89, Instr.decx, .x, -1) ∈ pointerTable ∧ InFlight (flight 0x89 0) 0x89 0 ∧
    AtBoundary State.reset :=
  ⟨witness_tables.2.2.2.2.2.1, witness_inFlight _ _, ⟨rfl, rfl⟩⟩

theorem witness_RelativeJumpAddsTheDisplacement :
    (0x93, Instr.jltr, Cond.less) ∈ relJumpTable ∧ InFlight (flight 0x93 0) 0x93 0 ∧ InFlight (flight 0x93 1) 0x93 1 ∧
    AtBoundary State.reset :=
  ⟨witness_tables.2.2.2.2.2.2.1, witness_inFlight _ _, witness_inFlight _ _, ⟨rfl, rfl⟩⟩

theorem witness_AbsoluteJumpLandsOnTheOperand :
    (0xA2, Instr.jgt, Cond.greater) ∈ absJumpTable ∧ InFlight (flight 0xA2 0) 0xA2 0 ∧ InFlight (flight 0xA2 1) 0xA2 1 ∧ InFlight (flight 0xA2 2) 0xA2 2 ∧
    AtBoundary State.reset :=
  ⟨witness_tables.2.2.2.2.2.2.2.1, witness_inFlight _ _, witness_inFlight _ _, witness_inFlight _ _, ⟨rfl, rfl⟩⟩

theorem witness_PushStoresAtTheStackPointer :
    (0x66, Instr.pushal, ⟨.a, .lo⟩) ∈ pushTable ∧ InFlight (flight 0x66 0) 0x66 0 ∧
    AtBoundary State.reset :=
  ⟨witness_tables.2.2.2.2.2.2.2.2.1, witness_inFlight _ _, ⟨rfl, rfl⟩⟩

theorem witness_PopReadsAboveTheStackPointer :
    (0x76, Instr.popal, ⟨.a, .lo⟩) ∈ popTable ∧ InFlight (flight 0x76 0) 0x76 0 ∧ InFlight (flight 0x76 1) 0x76 1 ∧
    AtBoundary State.reset :=
  ⟨witness_tables.2.2.2.2.2.2.2.2.2.1, witness_inFlight _ _, witness_inFlight _ _, ⟨rfl, rfl⟩⟩

theorem witness_TransferCopiesTheRegister :
    (0xDC, Instr.txy, .x, .y) ∈ transferTable ∧ InFlight (flight 0xDC 0) 0xDC 0 ∧
    AtBoundary State.reset :=
  ⟨witness_tables.2.2.2.2.2.2.2.2.2.2, witness_inFlight _ _, ⟨rfl, rfl⟩⟩

theorem witness_CallPushesTheReturnAddress :
    InFlight (flight 0xA8 0) 0xA8 0 ∧ InFlight (flight 0xA8 3) 0xA8 3 ∧ AtBoundary State.reset :=
  ⟨witness_inFlight _ _, witness_inFlight _ _, ⟨rfl, rfl⟩⟩

/-- Both cases of each condition that has two. -/
theorem witness_conditions :
    condTrue { State.reset with a := 0x8000, b := 0x7FFF } .greater ∧
    ¬ condTrue { State.reset with a := 0x7FFF, b := 0x7FFF } .greater ∧
    condTrue { State.reset with a := 0x7FFF, b := 0x8000 } .less ∧
    ¬ condTrue { State.reset with a := 0x8000, b := 0x8000 } .less ∧
    condTrue { State.reset with a := 0xFFFF, b := 0xFFFF } .equal ∧
    ¬ condTrue { State.reset with a := 0x0100, b := 0x0000 } .equal := by
  simp only [condTrue]
  decide

theorem witness_DivisionTakesTheFloor :
    AtBoundary { State.reset with a := 0xFFFF, b := 0x0001 } ∧
    { State.reset with a := 0xFFFF, b := 0x0001 }.b ≠ 0 ∧
    InFlight { flight 0x84 0 with b := 0xFFFF } 0x84 0 :=
  ⟨⟨rfl, rfl⟩, by decide, rfl, rfl, rfl, rfl, rfl⟩

theorem witness_DivisionByZeroHaltsTheCore :
    InFlight (flight 0x84 0) 0x84 0 ∧ (flight 0x84 0).b = 0 ∧
    AtBoundary { State.reset with a := 0x0007 } ∧ { State.reset with a := 0x0007 }.b = 0 ∧
    Instr.mul ≠ .div :=
  ⟨witness_inFlight _ _, rfl, ⟨rfl, rfl⟩, rfl, by simp⟩

/-- A CALL on writable stack addresses and the RET right after it. -/
theorem witness_ReturnPopsTheAddress :
    AtBoundary { State.reset with stk := 0x7FFF } ∧
    { State.reset with stk := 0x7FFF }.writableAt 0x7FFF = true ∧
    { State.reset with stk := 0x7FFF }.writableAt 0x7FFE = true ∧
    ∃ t, exec (.call 0x0200) { State.reset with stk := 0x7FFF } = .next t ∧ AtBoundary t :=
  ⟨⟨rfl, rfl⟩, by decide, by decide, _, rfl, rfl, rfl⟩

/-- The shape of program PR3 of 95_test_vectors.md: between PUSHAL and POPAL a SETA has changed a, pc and
the bus. -/
theorem witness_PopUndoesPush :
    ((0x66, Instr.pushal, ⟨.a, .lo⟩) ∈ pushTable ∧ (0x76, Instr.popal, ⟨.a, .lo⟩) ∈ popTable) ∧
    AtBoundary { State.reset with stk := 0x7FFF, a := 0x12EF } ∧
    { State.reset with stk := 0x7FFF, a := 0x12EF }.writableAt 0x7FFF = true ∧
    ∃ t u, exec .pushal { State.reset with stk := 0x7FFF, a := 0x12EF } = .next t ∧
      exec (.seta 0x0000) t = .next u ∧ (u.a ≠ t.a ∧ u.pc ≠ t.pc ∧ u.bus ≠ t.bus) ∧
      AtBoundary u ∧ u.stk = t.stk ∧ u.memRead 0x7FFF = t.memRead 0x7FFF :=
  ⟨⟨witness_tables.2.2.2.2.2.2.2.2.1, witness_tables.2.2.2.2.2.2.2.2.2.1⟩, ⟨rfl, rfl⟩, by decide,
    _, _, rfl, rfl, by decide, ⟨rfl, rfl⟩, rfl, rfl⟩

theorem witness_StoreIsSeenByTheNextFetch :
    AtBoundary { State.reset with pc := 0x7FFC } ∧
    { State.reset with pc := 0x7FFC }.writableAt (0x7FFC + 3) = true ∧
    ∃ t, exec (.styh (0x7FFC + 3)) { State.reset with pc := 0x7FFC } = .next t :=
  ⟨⟨rfl, rfl⟩, by decide, _, rfl⟩

/-- LDAL 0x8000, LXAL and POPAL on the reference platform, with the lowest unclaimed address. -/
theorem witness_UnclaimedLoadsTakeTheStaleByte :
    (byte2 (loaded [0x26, 0x00, 0x80]) = hiByte 0x8000 ∧
      (loaded [0x26, 0x00, 0x80]).memRead 0x8000 = none) ∧
    (byte0 { loaded [0x46] with x := 0x8000 } = 0x46 ∧
      { loaded [0x46] with x := 0x8000 }.memRead 0x8000 = none) ∧
    (byte0 { loaded [0x76] with stk := 0x7FFF } = 0x76 ∧
      { loaded [0x76] with stk := 0x7FFF }.memRead (0x7FFF + 1) = none) := by
  decide

theorem witness_LoadedWordRunsFirst : decodeTableWord 8 0x81 = some .add := by decide

end Sys2Proof.Tests
end

section
/-! PROOFS. Register halves (10_state.md rule R31) and the reset state (10_state.md rule R48,
70_reset_and_hazards.md rule R440). -/

namespace Sys2Proof

/-- The 16-bit value of two bytes, the more significant first (00_scope.md rule R9). -/
theorem joinBytes_toNat (h l : Byte) : (joinBytes h l).toNat = 256 * h.toNat + l.toNat := by
  have hl : l.toNat < 2 ^ 8 := l.isLt
  unfold joinBytes
  rw [BitVec.toNat_append, ← Nat.shiftLeft_add_eq_or_of_lt hl, Nat.shiftLeft_eq]
  omega

end Sys2Proof

namespace Sys2Proof.Machine

/-! ### The halves of a 16-bit value -/

@[simp] theorem partOf_withPart_same (p : Part) (w : Word) (v : Byte) :
    partOf p (withPart p w v) = v := by
  cases p with
  | lo => exact loByte_joinBytes (hiByte w) v
  | hi => exact hiByte_joinBytes v (loByte w)

theorem partOf_withPart_other {p q : Part} (hq : q ≠ p) (w : Word) (v : Byte) :
    partOf q (withPart p w v) = partOf q w := by
  cases p <;> cases q
  case lo.hi => exact hiByte_joinBytes (hiByte w) v
  case hi.lo => exact loByte_joinBytes v (loByte w)
  case lo.lo | hi.hi => exact absurd rfl hq

theorem joinBytes_partOf (w : Word) : joinBytes (partOf .hi w) (partOf .lo w) = w :=
  joinBytes_hiByte_loByte w

/-! ### `State.getHalf` after `State.setHalf` -/

@[simp] theorem State.getHalf_setHalf_same (s : State) (h : Half) (v : Byte) :
    (s.setHalf h v).getHalf h = v := by
  rw [State.getHalf, State.get_setHalf_same, partOf_withPart_same]

theorem State.getHalf_setHalf_otherPart (s : State) (r : Reg) {p q : Part} (hq : q ≠ p) (v : Byte) :
    (s.setHalf ⟨r, p⟩ v).getHalf ⟨r, q⟩ = s.getHalf ⟨r, q⟩ :=
  calc partOf q ((s.setHalf ⟨r, p⟩ v).get r)
      = partOf q (withPart p (s.get r) v) := congrArg _ (State.get_setHalf_same s ⟨r, p⟩ v)
    _ = partOf q (s.get r) := partOf_withPart_other hq _ v

/-- A register is its two halves joined. -/
theorem State.get_toNat_eq_halves (s : State) (r : Reg) :
    (s.get r).toNat = 256 * (s.getHalf ⟨r, .hi⟩).toNat + (s.getHalf ⟨r, .lo⟩).toNat :=
  calc (s.get r).toNat
      = (joinBytes (partOf .hi (s.get r)) (partOf .lo (s.get r))).toNat := by rw [joinBytes_partOf]
    _ = _ := joinBytes_toNat _ _

/-! ### The reset state -/

@[simp] theorem State.get_resetOn (ds : List Device) (r : Reg) :
    (State.resetOn ds).get r = 0x0000 := by
  cases r <;> rfl

end Sys2Proof.Machine

namespace Sys2Proof.Proofs

open Sys2Proof Sys2Proof.Machine

/-- Settles O5: a read of a half after a write of a half, part by part, and the frame of the write. -/
theorem halfWriteKeepsTheOtherHalf : Obligations.HalfWriteKeepsTheOtherHalf := by
  intro s r v
  have hi_ne_lo : Part.hi ≠ Part.lo := by decide
  refine ⟨⟨?loWritten, ?hiKept⟩, ⟨?hiWritten, ?loKept⟩, ?joined, ?others⟩
  case loWritten => exact s.getHalf_setHalf_same ⟨r, .lo⟩ v
  case hiKept => exact s.getHalf_setHalf_otherPart r hi_ne_lo v
  case hiWritten => exact s.getHalf_setHalf_same ⟨r, .hi⟩ v
  case loKept => exact s.getHalf_setHalf_otherPart r hi_ne_lo.symm v
  case joined => exact s.get_toNat_eq_halves r
  case others => exact fun p r' hr => s.get_setHalf_other (h := ⟨r, p⟩) v hr

/-- Settles O19: every register by `State.get_resetOn`, every other field as `State.resetOn` gives it. -/
theorem resetStateIsAsStated : Obligations.ResetStateIsAsStated :=
  fun ds => ⟨State.get_resetOn ds, rfl, rfl, rfl, rfl, rfl, rfl, rfl⟩

end Sys2Proof.Proofs
end

section
/-! PROOFS. The bus operations and the device contract (20_memory.md rules R71, R72, R78, R101). -/

namespace Sys2Proof.Machine

/-! ### The window of a device -/

/-- The offset as the spec writes it, in natural numbers (20_memory.md rule R78). -/
theorem Device.offset_toNat (d : Device) (A : Word) :
    (d.offset A).toNat = (A.toNat + 65536 - d.cfg.mountBase.toNat) % 65536 := by
  unfold Device.offset
  bv_omega

theorem Device.claims_iff (d : Device) (A : Word) :
    d.claims A = true ↔ (d.offset A).toNat < d.cfg.windowSize.toNat := by
  simp only [Device.claims, decide_eq_true_eq, BitVec.lt_def]

theorem Device.claims_eq_false_iff (d : Device) (A : Word) :
    d.claims A = false ↔ d.cfg.windowSize.toNat ≤ (d.offset A).toNat := by
  rw [← Bool.not_eq_true, d.claims_iff, Nat.not_lt]

/-! ### The branches of the device tick -/

theorem Device.accept_of_writable {d : Device} {A : Word} (v : Byte) (hc : d.claims A = true)
    (hw : d.cfg.writable = true) : d.accept A v = d.poke A v := by
  simp [Device.accept, hc, hw]

theorem Device.accept_of_readOnly {d : Device} (A : Word) (v : Byte)
    (hw : d.cfg.writable = false) : d.accept A v = d := by
  simp [Device.accept, hw]

theorem Device.tick_of_unclaimed {d : Device} {bus : Bus} (hc : d.claims bus.address = false) :
    d.tick bus = (d, bus) := by
  simp [Device.tick, hc]

theorem Device.tick_of_read {d : Device} {bus : Bus} (hc : d.claims bus.address = true)
    (hr : bus.readIntent = true) : d.tick bus = (d, ⟨bus.address, d.load bus.address, true⟩) := by
  simp [Device.tick, hc, hr]

theorem Device.tick_of_write {d : Device} {bus : Bus} (hc : d.claims bus.address = true)
    (hr : bus.readIntent = false) : d.tick bus = (d.accept bus.address bus.data, bus) := by
  simp [Device.tick, hc, hr]

/-! ### A platform of one device -/

theorem claimer_singleton {d : Device} {A : Word} (hc : d.claims A = true) :
    claimer [d] A = some d := by
  simp [claimer, hc]

theorem State.memRead_of_singleton {s : State} {d : Device} {A : Word} (hs : s.devices = [d])
    (hc : d.claims A = true) : s.memRead A = some (d.load A) := by
  rw [State.memRead, hs, claimer_singleton hc, Option.map_some]

theorem State.writableAt_of_singleton {s : State} {d : Device} {A : Word} (hs : s.devices = [d])
    (hc : d.claims A = true) : s.writableAt A = d.cfg.writable := by
  rw [State.writableAt, hs, claimer_singleton hc, Option.map_some, Option.getD_some]

/-! ### A bus operation and the device part of the edge it ends -/

/-- `BusRead(A)` is answered with the byte at `A` (20_memory.md rules R72, R78). -/
theorem State.busRead_tickDevices_data {s : State} {A : Word} {v : Byte}
    (h : s.memRead A = some v) : (s.busRead A).tickDevices.bus.data = v := by
  rw [State.tickDevices_of_read (s := s.busRead A) rfl]
  exact State.answer_claimed _ h

/-- `BusWrite(A, v)` leaves `v` at `A` where a writable device claims it (20_memory.md rules R71,
R101). -/
theorem State.busWrite_tickDevices_memRead {s : State} {A : Word} (v : Byte)
    (h : s.writableAt A = true) : (s.busWrite A v).tickDevices.memRead A = some v := by
  have kept : (s.busWrite A v).writableAt A = true := h
  rw [State.tickDevices_of_write (s := s.busWrite A v) rfl]
  exact ((s.busWrite A v).memRead_storeByte_same A v).trans (if_pos kept)

end Sys2Proof.Machine

namespace Sys2Proof.Proofs

open Sys2Proof Sys2Proof.Machine

/-- Settles O7: the latches as the two operations give them; the claiming device is the only one of
its platform, so it answers the read and keeps the write. -/
theorem busOperationsLatch : Obligations.BusOperationsLatch := by
  intro s A v
  refine ⟨?writeLatches, ?readLatches, fun d t ht hc => ⟨?readAnswered, fun hw => ?writeStored⟩⟩
  case writeLatches => rfl
  case readLatches => rfl
  case readAnswered => exact t.busRead_tickDevices_data (State.memRead_of_singleton ht hc)
  case writeStored =>
    have kept : t.writableAt A = true := (State.writableAt_of_singleton ht hc).trans hw
    exact t.busWrite_tickDevices_memRead v kept

/-- Settles O8: the offset is `Device.offset`, it decides whether the device claims the address, and
each case is one branch of the device tick. -/
theorem deviceContract : Obligations.DeviceContract := by
  intro d bus offset
  have hoff : offset = (d.offset bus.address).toNat := (d.offset_toNat bus.address).symm
  have claimed (h : offset < d.cfg.windowSize.toNat) : d.claims bus.address = true :=
    (d.claims_iff bus.address).2 (hoff ▸ h)
  refine ⟨fun h => ?outside, fun h hr => ?read, fun h hr hw => ?write, fun h hr hw => ?readOnly⟩
  case outside => exact Device.tick_of_unclaimed ((d.claims_eq_false_iff bus.address).2 (hoff ▸ h))
  case read => rw [Device.tick_of_read (claimed h) hr, Device.load, hoff]
  case write =>
    rw [Device.tick_of_write (claimed h) hr, Device.accept_of_writable _ (claimed h) hw,
      Device.poke, hoff]
  case readOnly =>
    rw [Device.tick_of_write (claimed h) hr, Device.accept_of_readOnly _ _ hw]

end Sys2Proof.Proofs
end

section
/-! PROOFS. The illegal opcodes and the halt they cause (30_encoding.md rule R130, 60_exceptions.md
rules R401 and R406). -/

namespace Sys2Proof

/-! ### The opcode bytes that have no row -/

theorem lookupForm_eq_none_iff (m : List (Byte × Form)) (op : Byte) :
    lookupForm m op = none ↔ op ∉ m.map Prod.fst := by
  induction m with
  | nil => simp [lookupForm]
  | cons row m ih =>
    obtain ⟨k, f⟩ := row
    by_cases hk : k = op
    · simp [lookupForm, hk]
    · simp [lookupForm, hk, Ne.symm hk, ih]

/-- Operand bytes take no part: where the byte has a row, the decoder reads an instruction or finds
the stream too short (30_encoding.md rules R127, R132). -/
theorem decode_eq_illegalOpcode_iff (op : Byte) (rest : List Byte) :
    decode (op :: rest) = .error (.illegalOpcode op) ↔ lookupForm opcodeMap op = none := by
  cases hform : lookupForm opcodeMap op with
  | none => simp [decode, hform]
  | some form =>
    match form, rest with
    | .f0 _, _ => simp [decode, hform]
    | .f1 _, [] | .f1 _, _ :: _ => simp [decode, hform]
    | .f2 _, [] | .f2 _, [_] | .f2 _, _ :: _ :: _ => simp [decode, hform]

theorem opcodeInstr_eq_none {op : Byte} (h : lookupForm opcodeMap op = none) :
    opcodeInstr op = none := by
  simp [opcodeInstr, h]

end Sys2Proof

namespace Sys2Proof.Machine

/-! ### The cycle that halts the core -/

theorem dispatchRow_of_noRow {op : Byte} (cycle : Byte) (h : lookupForm opcodeMap op = none) :
    dispatchRow op cycle = some illegalRow := by
  simp [dispatchRow, opcodeInstr_eq_none h]

/-- The halting exec cycle: the opcode is latched and counted, but not where it is 0x00, the value
that means unset (30_encoding.md rule R131, 60_exceptions.md rule R406). -/
theorem State.execTick_illegalRow {s : State} (D : Byte) (hop : s.opcode = 0) (hst : s.state = 0) :
    s.execTick D illegalRow
      = { s with opcode := D, state := if D = 0 then 0 else 1, halt := true
                 log := s.log ++ [⟨.illegalOpcode, D, s.pc⟩] } := by
  unfold State.execTick illegalRow
  rw [State.latchOpcode_unset D hop]
  by_cases hD : D = 0
  · rw [State.countCycle_unset hD, if_pos hD, ← hst]
    rfl
  · rw [State.countCycle_set hD, if_neg hD, State.raise_state, hst]
    rfl

/-- The two edges of an illegal opcode: the second holds the answered fetch read of the first, so the
devices only answer it again (20_memory.md rule R83). -/
theorem State.takeIllegalOpcode_eq (s : State) (op : Byte) :
    s.takeIllegalOpcode op
      = { s with opcode := op, state := if op = 0 then 0 else 1, fetch := false, halt := true
                 bus := ⟨s.pc, s.answer s.pc s.bus.data, true⟩
                 log := s.log ++ [⟨.illegalOpcode, op, s.pc⟩] } := by
  unfold State.takeIllegalOpcode
  rw [State.run_eq, State.runRows_cons, State.runRows_nil, State.fetchEdge_eq, State.execEdge,
    State.execTick_illegalRow _ rfl rfl]
  refine State.tickDevices_of_holdsRead (A := s.pc) ⟨⟨rfl, rfl⟩, ?_⟩
  exact s.answer_answer s.pc s.bus.data

theorem step_at_boundary {s : State} (hf : s.fetch = true) (hh : s.halt = false)
    (hp : s.platformOk = true) : step s = s.stepFetched := by
  simp [step, hp, hh, hf]

theorem State.stepFetched_of_noRow {s : State}
    (hrow : lookupForm opcodeMap (s.answer s.pc s.bus.data) = none) :
    s.stepFetched = .next (s.takeIllegalOpcode (s.answer s.pc s.bus.data)) := by
  have hdecode : decode s.instrBytes = .error (.illegalOpcode (s.answer s.pc s.bus.data)) :=
    (decode_eq_illegalOpcode_iff _ _).2 hrow
  rw [State.stepFetched, hdecode]

end Sys2Proof.Machine

namespace Sys2Proof.Claims

open Sys2Proof Sys2Proof.Machine

/-! ### The list of rule R130 -/

/-- The opcode bytes of the map as numbers, in its order. -/
def legalBytes : List Nat := (opcodeMap.map Prod.fst).map BitVec.toNat

/-- The ranges that ascending numbers leave free between `lo` and 0xFF. -/
def gaps : Nat → List Nat → List (Nat × Nat)
  | lo, [] => [(lo, 0xFF)]
  | lo, k :: ks => if lo < k then (lo, k - 1) :: gaps (k + 1) ks else gaps (k + 1) ks

theorem mem_gaps_iff {n lo : Nat} {ks : List Nat} (hn : n ≤ 0xFF) (hlo : ∀ k ∈ ks, lo ≤ k)
    (hks : ks.Pairwise (· < ·)) :
    (∃ r ∈ gaps lo ks, r.1 ≤ n ∧ n ≤ r.2) ↔ lo ≤ n ∧ n ∉ ks := by
  induction ks generalizing lo with
  | nil => simp [gaps, hn]
  | cons k ks ih =>
    obtain ⟨hk, hks⟩ := List.pairwise_cons.1 hks
    have hlok : lo ≤ k := hlo k List.mem_cons_self
    have habove : n ∈ ks → k < n := hk n
    have hrest := ih hk hks
    rw [List.mem_cons, gaps]
    split
    · simp only [List.mem_cons, exists_eq_or_imp, hrest]
      grind
    · rw [hrest]
      grind

theorem legalBytes_pairwise_lt : legalBytes.Pairwise (· < ·) := by
  decide

theorem illegalRanges_eq_gaps : illegalRanges = gaps 0 legalBytes := by decide

/-- The bytes that rule R130 lists are those without a row in the opcode map. -/
theorem illegal_iff_lookupForm_eq_none (op : Byte) :
    Illegal op ↔ lookupForm opcodeMap op = none :=
  calc Illegal op
      ↔ ∃ r ∈ gaps 0 legalBytes, r.1 ≤ op.toNat ∧ op.toNat ≤ r.2 := by
        rw [Illegal, illegalRanges_eq_gaps]
    _ ↔ 0 ≤ op.toNat ∧ op.toNat ∉ legalBytes :=
        mem_gaps_iff (Nat.le_of_lt_succ op.isLt) (fun k _ => k.zero_le) legalBytes_pairwise_lt
    _ ↔ op ∉ opcodeMap.map Prod.fst := by
        rw [legalBytes, List.mem_map_of_injective BitVec.toNat_injective]
        exact and_iff_right op.toNat.zero_le
    _ ↔ lookupForm opcodeMap op = none := (lookupForm_eq_none_iff opcodeMap op).symm

/-- Exec cycle 0 of an illegal opcode byte. -/
theorem tick_of_illegal {s : State} {op : Byte} (hop : Illegal op) (hs : InFlight s op 0) :
    s.tick = .next { s with opcode := op, state := if op = 0 then 0 else 1, halt := true
                            log := s.log ++ [⟨.illegalOpcode, op, s.pc⟩] } := by
  obtain ⟨hf, hh, hst, hunset, rfl⟩ := hs
  have hrow : dispatchRow (s.latchOpcode s.bus.data).opcode s.state = some illegalRow := by
    rw [State.latchOpcode_unset _ hunset]
    exact dispatchRow_of_noRow s.state ((illegal_iff_lookupForm_eq_none _).1 hop)
  rw [State.tick_of_exec hh hf hrow, State.execTick_illegalRow _ hunset hst]

/-- A whole illegal opcode, which leaves every store as it was. -/
theorem step_of_illegal {s : State} (hs : AtBoundary s) (hp : s.platformOk = true)
    (hop : Illegal (byte0 s)) :
    NextSameMemory (step s) s (haltedAt s (byte0 s) [⟨.illegalOpcode, byte0 s, s.pc⟩]) := by
  obtain ⟨hf, hh⟩ := hs
  have hstep : step s = .next (s.takeIllegalOpcode (byte0 s)) :=
    (step_at_boundary hf hh hp).trans
      (State.stepFetched_of_noRow ((illegal_iff_lookupForm_eq_none _).1 hop))
  exact ⟨hstep.trans (congrArg _ (s.takeIllegalOpcode_eq (byte0 s))),
    State.memRead_congr rfl⟩

end Sys2Proof.Claims

namespace Sys2Proof.Proofs

open Sys2Proof Sys2Proof.Machine Sys2Proof.Claims

/-- Settles O4: the listed bytes are those without a row, the tick of one is its exec cycle 0, and its
step is the fetch edge and that tick's edge. -/
theorem illegalOpcodeHaltsTheCore : Obligations.IllegalOpcodeHaltsTheCore := by
  refine ⟨?causeCode, fun op rest => ?illegalBytes, fun s op hop hs => ?tick, fun s hs hp hop => ?step⟩
  case causeCode => rfl
  case illegalBytes =>
    exact (decode_eq_illegalOpcode_iff op rest).trans (illegal_iff_lookupForm_eq_none op).symm
  case tick => exact tick_of_illegal hop hs
  case step => exact step_of_illegal hs hp hop

end Sys2Proof.Proofs
end

section
/-! PROOFS. The controller's tick (40_controller.md rule R172). -/

namespace Sys2Proof.Proofs

open Sys2Proof Sys2Proof.Machine

/-- Settles O12: the tick asks for `halt` first, and `State.tick_of_halt` is that branch. -/
theorem haltedTickChangesNothing : Obligations.HaltedTickChangesNothing :=
  fun _ halted => State.tick_of_halt halted

end Sys2Proof.Proofs
end

section
/-! PROOFS. The exec cycles in flight, the 16-bit operand protocol and `SET r, imm16`
(40_controller.md rules R174, R175 and R181, 41_set_immediate.md rule R200). -/

namespace Sys2Proof.Machine

/-! ### From an instruction to its rows -/

/-- A meaning is a run of the rows that `dispatch` selects, on the instruction's own bytes. -/
theorem exec_eq_run (i : Instr) (s : State) :
    exec i s = .next (s.run (encode i) (handlerRows i)) := by
  cases i <;> rfl

theorem dispatchRow_of_handler {op : Byte} {i : Instr} (cycle : Byte) (h : opcodeInstr op = some i) :
    dispatchRow op cycle = (handlerRows i)[cycle.toNat]? := by
  simp [dispatchRow, h]

/-! ### Writing the halves of a register inside an instruction -/

/-- Inside an instruction: the registers of `s`, before exec cycle `n` of the opcode `op`. -/
def State.inCycle (s : State) (op n : Byte) (pc : Word) (bus : Bus) : State :=
  { s with opcode := op, state := n, fetch := false, pc := pc, bus := bus }

theorem State.setHalf_pc_of_ne {r : Reg} (hr : r ≠ .pc) (s : State) (p : Part) (v : Byte) :
    (s.setHalf ⟨r, p⟩ v).pc = s.pc :=
  s.get_setHalf_other (h := ⟨r, p⟩) v hr.symm

theorem State.setHalf_inCycle {r : Reg} (hr : r ≠ .pc) (s : State) (op n : Byte) (pc : Word)
    (bus : Bus) (p : Part) (v : Byte) :
    (s.inCycle op n pc bus).setHalf ⟨r, p⟩ v = (s.setHalf ⟨r, p⟩ v).inCycle op n pc bus := by
  cases r with
  | pc => exact absurd rfl hr
  | stk | adr | a | b | x | y => rfl

/-- Both halves, low before high, make the whole register (10_state.md rule R31). -/
theorem State.setHalf_lo_hi (s : State) (r : Reg) (w : Word) :
    (s.setHalf ⟨r, .lo⟩ (loByte w)).setHalf ⟨r, .hi⟩ (hiByte w) = s.set r w := by
  have joined : withPart .hi (withPart .lo (s.get r) (loByte w)) (hiByte w) = w := by
    simp [withPart]
  calc (s.setHalf ⟨r, .lo⟩ (loByte w)).setHalf ⟨r, .hi⟩ (hiByte w)
      = (s.set r (withPart .lo (s.get r) (loByte w))).set r w := by
        rw [State.setHalf, State.get_setHalf_same, joined, State.setHalf]
    _ = s.set r w := by cases r <;> rfl

end Sys2Proof.Machine

namespace Sys2Proof.Claims

open Sys2Proof Sys2Proof.Machine

/-! ### The tick of a core in flight -/

theorem InFlight.latched {s : State} {op n : Byte} (hs : InFlight s op n) (hop : op ≠ 0) :
    (s.latchOpcode s.bus.data).opcode = op := by
  obtain ⟨-, -, -, hcycle⟩ := hs
  split at hcycle
  · obtain ⟨hunset, hdata⟩ := hcycle
    rw [State.latchOpcode_unset _ hunset, hdata]
  · rw [State.latchOpcode_set _ (hcycle ▸ hop), hcycle]

/-- Before a later cycle than the first the opcode stands in its register. -/
theorem InFlight.opcode_ne_zero {s : State} {op n : Byte} (hs : InFlight s op n) (hn : n ≠ 0)
    (hop : op ≠ 0) : s.opcode ≠ 0 := by
  obtain ⟨-, -, -, hcycle⟩ := hs
  rw [if_neg hn] at hcycle
  exact hcycle ▸ hop

/-- A core in flight runs the row that its instruction's table has for the cycle. -/
theorem InFlight.tick_eq {s : State} {op n : Byte} {i : Instr} {row : Row} (hs : InFlight s op n)
    (hop : op ≠ 0) (hi : opcodeInstr op = some i) (hrow : (handlerRows i)[n.toNat]? = some row) :
    s.tick = .next (s.execTick s.bus.data row) := by
  have hlatched := hs.latched hop
  obtain ⟨hf, hh, rfl, -⟩ := hs
  exact State.tick_of_exec hh hf (by rw [hlatched, dispatchRow_of_handler _ hi, hrow])

/-! ### The three cycles of the operand protocol -/

/-- Cycle 0: the opcode is latched and the low operand byte requested. -/
theorem execTick_requestRow {s : State} {op : Byte} (hop : op ≠ 0) (hunset : s.opcode = 0) :
    s.execTick op requestRow
      = { s with opcode := op, state := s.state + 1, pc := s.pc + 1, bus := readOf s (s.pc + 1) } := by
  unfold State.execTick
  rw [State.latchOpcode_unset op hunset]
  exact State.countCycle_set hop

/-- Cycle 1: the low half is written and the high operand byte requested. -/
theorem execTick_latchLowRow {s : State} {r : Reg} (D : Byte) (hop : s.opcode ≠ 0) (hr : r ≠ .pc) :
    s.execTick D (latchLowRow r)
      = { s.setHalf ⟨r, .lo⟩ D with
          state := s.state + 1, pc := s.pc + 1, bus := readOf s (s.pc + 1) } := by
  have kept : ((s.setHalf ⟨r, .lo⟩ D).nextByte).opcode ≠ 0 := by simpa using hop
  unfold State.execTick latchLowRow
  rw [State.latchOpcode_set D hop, State.countCycle_set kept, State.nextByte,
    State.setHalf_pc_of_ne hr]
  simp [State.busRead, readOf]

/-- Cycle 2: the high half is written, and the family's own action follows. -/
theorem execTick_latchHighRow {s : State} (r : Reg) (action : State → State) (D : Byte)
    (hop : s.opcode ≠ 0) :
    s.execTick D (latchHighRow r action) = (action (s.setHalf ⟨r, .hi⟩ D)).countCycle := by
  unfold State.execTick latchHighRow
  rw [State.latchOpcode_set D hop]

/-- Cycle 2 of an instruction that ends there: `advance` unsets the opcode, so nothing is counted. -/
theorem execTick_latchHighRow_advance {s : State} {r : Reg} (D : Byte) (hop : s.opcode ≠ 0)
    (hr : r ≠ .pc) :
    s.execTick D (latchHighRow r State.advance)
      = { s.setHalf ⟨r, .hi⟩ D with state := 0, opcode := 0, fetch := true, pc := s.pc + 1 } := by
  rw [execTick_latchHighRow r _ D hop, State.countCycle_unset rfl, State.advance,
    State.setHalf_pc_of_ne hr]

/-! ### The edges of the operand protocol -/

theorem fetchEdge_inCycle (s : State) : s.fetchEdge = s.inCycle 0 0 s.pc ⟨s.pc, byte0 s, true⟩ :=
  s.fetchEdge_eq

theorem execEdge_requestRow {s : State} {op : Byte} (hop : op ≠ 0) :
    (s.inCycle 0 0 s.pc ⟨s.pc, byte0 s, true⟩).execEdge op requestRow
      = s.inCycle op 1 (s.pc + 1) ⟨s.pc + 1, byte1 s, true⟩ := by
  rw [State.execEdge, execTick_requestRow hop rfl, State.tickDevices_of_read rfl]
  rfl

theorem execEdge_latchLowRow {s : State} {op : Byte} {r : Reg} (D : Byte) (hop : op ≠ 0)
    (hr : r ≠ .pc) :
    (s.inCycle op 1 (s.pc + 1) ⟨s.pc + 1, byte1 s, true⟩).execEdge D (latchLowRow r)
      = (s.setHalf ⟨r, .lo⟩ D).inCycle op 2 (s.pc + 2) ⟨s.pc + 2, byte2 s, true⟩ := by
  have pcNext : s.pc + 1 + 1 = s.pc + 2 := BitVec.add_assoc _ _ _
  have answered (A : Word) (D' : Byte) : (s.setHalf ⟨r, .lo⟩ D).answer A D' = s.answer A D' :=
    State.answer_congr (s.setHalf_devices _ D) A D'
  rw [byte2, ← answered, ← pcNext, State.execEdge, execTick_latchLowRow D hop hr,
    State.tickDevices_of_read rfl, State.setHalf_inCycle hr]
  rfl

/-- The fetch edge and the first two exec edges, before the cycle that writes the high half. -/
theorem run_operand {s : State} {op : Byte} {r : Reg} (l h : Byte) (rows : List Row) (hop : op ≠ 0)
    (hr : r ≠ .pc) :
    s.run [op, l, h] (requestRow :: latchLowRow r :: rows)
      = State.runRows [h] rows
          ((s.setHalf ⟨r, .lo⟩ l).inCycle op 2 (s.pc + 2) ⟨s.pc + 2, byte2 s, true⟩) := by
  rw [State.run_eq, fetchEdge_inCycle, State.runRows_cons, List.headD_cons, execEdge_requestRow hop,
    State.runRows_cons, List.tail_cons, List.headD_cons, execEdge_latchLowRow l hop hr,
    List.tail_cons]

/-! ### `SET r, imm16` -/

/-- A whole `SET`: its last edge holds the answered operand read of the edge before it, so the devices
only answer it again (20_memory.md rule R83). -/
theorem run_setRows {s : State} {op : Byte} {r : Reg} (imm16 : Word) (hf : s.fetch = true)
    (hop : op ≠ 0) (hr : r ≠ .pc) :
    s.run [op, loByte imm16, hiByte imm16] (setRows r)
      = { s.set r imm16 with
          pc := s.pc + 3, opcode := 0, state := 0, bus := ⟨s.pc + 2, byte2 s, true⟩ } := by
  have pcNext : s.pc + 2 + 1 = s.pc + 3 := BitVec.add_assoc _ _ _
  have fetching : (s.set r imm16).fetch = true := (s.set_fetch r imm16).trans hf
  have answered : (s.set r imm16).answer (s.pc + 2) (byte2 s) = byte2 s :=
    (State.answer_congr (s.set_devices r imm16) _ _).trans (s.answer_answer _ _)
  rw [setRows, run_operand _ _ _ hop hr, State.runRows_cons, State.runRows_nil, List.headD_cons,
    State.execEdge, execTick_latchHighRow_advance _ hop hr, State.setHalf_inCycle hr,
    State.setHalf_lo_hi, State.tickDevices_of_holdsRead (A := s.pc + 2) ⟨⟨rfl, rfl⟩, answered⟩]
  simp only [State.inCycle, pcNext, fetching]

/-- What the opcode table says of a row that is a `SET` (41_set_immediate.md rule R200). -/
structure IsSetRow (op : Byte) (mk : Word → Instr) (r : Reg) : Prop where
  encode_eq : ∀ imm16, encode (mk imm16) = [op, loByte imm16, hiByte imm16]
  cycles_eq : ∀ imm16, execCycles (mk imm16) = 3
  handlerRows_eq : ∀ imm16, handlerRows (mk imm16) = setRows r
  opcodeInstr_eq : opcodeInstr op = some (mk 0)
  opcode_ne_zero : op ≠ 0
  target_ne_pc : r ≠ .pc

theorem isSetRow_of_mem : ∀ e ∈ setTable, IsSetRow e.1 e.2.1 e.2.2 := by
  simp only [setTable, List.forall_mem_cons, List.not_mem_nil, false_implies, implies_true, and_true]
  refine ⟨?stk, ?a, ?b, ?x, ?y⟩
  all_goals exact ⟨fun _ => rfl, fun _ => rfl, fun _ => rfl, rfl, by decide, by decide⟩

section
variable {op : Byte} {mk : Word → Instr} {r : Reg} {s : State}

theorem IsSetRow.tick_eq (h : IsSetRow op mk r) {n : Byte} {row : Row} (hs : InFlight s op n)
    (hrow : (setRows r)[n.toNat]? = some row) : s.tick = .next (s.execTick s.bus.data row) :=
  hs.tick_eq h.opcode_ne_zero h.opcodeInstr_eq (h.handlerRows_eq 0 ▸ hrow)

theorem IsSetRow.tick_zero (h : IsSetRow op mk r) (hs : InFlight s op 0) :
    s.tick = .next
      { s with opcode := op, state := 1, pc := s.pc + 1, bus := readOf s (s.pc + 1) } := by
  have htick := h.tick_eq hs rfl
  obtain ⟨-, -, hstate, hunset, hdata⟩ := hs
  rw [htick, hdata, execTick_requestRow h.opcode_ne_zero hunset, hstate]
  rfl

theorem IsSetRow.tick_one (h : IsSetRow op mk r) (hs : InFlight s op 1) :
    s.tick = .next { s.setHalf ⟨r, .lo⟩ s.bus.data with
      state := 2, pc := s.pc + 1, bus := readOf s (s.pc + 1) } := by
  have hop : s.opcode ≠ 0 := hs.opcode_ne_zero (by decide) h.opcode_ne_zero
  have htick := h.tick_eq hs rfl
  obtain ⟨-, -, hstate, -⟩ := hs
  rw [htick, execTick_latchLowRow _ hop h.target_ne_pc, hstate]
  rfl

theorem IsSetRow.tick_two (h : IsSetRow op mk r) (hs : InFlight s op 2) :
    s.tick = .next { s.setHalf ⟨r, .hi⟩ s.bus.data with
      state := 0, opcode := 0, fetch := true, pc := s.pc + 1 } := by
  have hop : s.opcode ≠ 0 := hs.opcode_ne_zero (by decide) h.opcode_ne_zero
  rw [h.tick_eq hs rfl, execTick_latchHighRow_advance _ hop h.target_ne_pc]

theorem IsSetRow.exec_eq (h : IsSetRow op mk r) (imm16 : Word) (hf : s.fetch = true) :
    exec (mk imm16) s = .next { s.set r imm16 with
      pc := s.pc + 3, opcode := 0, state := 0, bus := ⟨s.pc + 2, byte2 s, true⟩ } := by
  rw [exec_eq_run, h.encode_eq, h.handlerRows_eq,
    run_setRows imm16 hf h.opcode_ne_zero h.target_ne_pc]

end

end Sys2Proof.Claims

namespace Sys2Proof.Proofs

open Sys2Proof Sys2Proof.Machine Sys2Proof.Claims

/-- Settles O34: each row of the table is a `SET`; its three ticks are the operand protocol that ends in
`advance`, its meaning is their run, and no cycle of it writes to memory. -/
theorem setWritesItsRegister : Obligations.SetWritesItsRegister := by
  intro e he
  have hset := isSetRow_of_mem e he
  refine ⟨fun imm16 => ?row, fun s hs => ?cycle0, fun s hs => ?cycle1, fun s hs => ?cycle2,
    fun s imm16 ⟨hf, _⟩ => ⟨?result, ?memory⟩⟩
  case row => exact ⟨hset.encode_eq imm16, hset.cycles_eq imm16⟩
  case cycle0 => exact hset.tick_zero hs
  case cycle1 => exact hset.tick_one hs
  case cycle2 => exact hset.tick_two hs
  case result => exact hset.exec_eq imm16 hf
  case memory => exact State.memRead_congr (s.set_devices e.2.2 imm16)

end Sys2Proof.Proofs
end

section
/-! PROOFS. `LD h, abs16` and `ST h, abs16`: an operand that becomes an address in `adr`, and the byte
read or written there (40_controller.md rule R181, 42_absolute_load_store.md rules R220 and R230). -/

namespace Sys2Proof.Machine

/-! ### Half writes and the fields they leave alone -/

theorem State.getHalf_setHalf_otherReg (s : State) {h k : Half} (hk : h.reg ≠ k.reg) (v : Byte) :
    (s.setHalf k v).getHalf h = s.getHalf h :=
  congrArg _ (s.get_setHalf_other v hk)

theorem State.getHalf_inCycle {h : Half} (hpc : h.reg ≠ .pc) (s : State) (op n : Byte) (pc : Word)
    (bus : Bus) : (s.inCycle op n pc bus).getHalf h = s.getHalf h := by
  obtain ⟨r, p⟩ := h
  cases r with
  | pc => exact absurd rfl hpc
  | stk | adr | a | b | x | y => rfl

/-- Writes to two registers do not see each other (10_state.md rule R31). -/
theorem State.setHalf_set_adr {h : Half} (hadr : h.reg ≠ .adr) (s : State) (w : Word) (v : Byte) :
    (s.set .adr w).setHalf h v = (s.setHalf h v).set .adr w := by
  obtain ⟨r, p⟩ := h
  cases r with
  | adr => exact absurd rfl hadr
  | pc | stk | a | b | x | y => rfl

/-! ### The rows of a load and of a store after the operand's low byte -/

/-- Cycle 2 of a load: the address is complete, and its read is issued. -/
def requestDataRow : Row := latchHighRow .adr (fun s => s.busRead s.adr)

/-- Cycle 2 of a store: the address is complete, and the half is written there. -/
def sendHalfRow (h : Half) : Row :=
  latchHighRow .adr (fun s => (s.busWrite s.adr (s.getHalf h)).advance)

theorem loadRows_eq (h : Half) :
    loadRows h = [requestRow, latchLowRow .adr, requestDataRow, receiveRow h] := rfl

theorem storeRows_eq (h : Half) :
    storeRows h = [requestRow, latchLowRow .adr, sendHalfRow h] := rfl

end Sys2Proof.Machine

namespace Sys2Proof.Claims

open Sys2Proof Sys2Proof.Machine

/-! ### The cycles of a load and of a store -/

/-- Cycle 0 of every instruction with an operand (40_controller.md rules R174, R180). -/
theorem InFlight.tick_requestRow {s : State} {op : Byte} {i : Instr} (hs : InFlight s op 0)
    (hop : op ≠ 0) (hi : opcodeInstr op = some i) (hrow : (handlerRows i)[0]? = some requestRow) :
    s.tick = .next
      { s with opcode := op, state := 1, pc := s.pc + 1, bus := readOf s (s.pc + 1) } := by
  have htick := hs.tick_eq hop hi hrow
  obtain ⟨-, -, hstate, hunset, hdata⟩ := hs
  rw [htick, hdata, execTick_requestRow hop hunset, hstate]
  rfl

theorem execTick_requestDataRow {s : State} (D : Byte) (hop : s.opcode ≠ 0) :
    s.execTick D requestDataRow
      = { s with adr := joinBytes D (loByte s.adr), state := s.state + 1
                 bus := readOf s (joinBytes D (loByte s.adr)) } := by
  rw [requestDataRow, execTick_latchHighRow .adr _ D hop]
  exact State.countCycle_set hop

/-- The last cycle of an instruction that receives a byte: `advance` unsets the opcode, so nothing is
counted. -/
theorem execTick_receiveRow {s : State} {h : Half} (D : Byte) (hop : s.opcode ≠ 0)
    (hpc : h.reg ≠ .pc) :
    s.execTick D (receiveRow h)
      = { s.setHalf h D with state := 0, opcode := 0, fetch := true, pc := s.pc + 1 } := by
  unfold State.execTick receiveRow
  rw [State.latchOpcode_set D hop, State.countCycle_unset rfl, State.advance,
    State.setHalf_pc_of_ne hpc]

/-- The half is read after the address is complete, which does not change it. -/
theorem execTick_sendHalfRow {s : State} {h : Half} (D : Byte) (hop : s.opcode ≠ 0)
    (hadr : h.reg ≠ .adr) :
    s.execTick D (sendHalfRow h)
      = { s with adr := joinBytes D (loByte s.adr), state := 0, opcode := 0, fetch := true
                 pc := s.pc + 1, bus := ⟨joinBytes D (loByte s.adr), s.getHalf h, false⟩ } := by
  rw [sendHalfRow, execTick_latchHighRow .adr _ D hop, State.countCycle_unset rfl,
    s.getHalf_setHalf_otherReg (k := ⟨.adr, .hi⟩) hadr D]
  rfl

/-! ### The edges after the operand -/

/-- Cycle 2 of a load with the devices' answer: `w` is in `adr`, its byte on the bus. -/
theorem execEdge_requestDataRow {s : State} {op : Byte} (w : Word) (hop : op ≠ 0) :
    ((s.setHalf ⟨.adr, .lo⟩ (loByte w)).inCycle op 2 (s.pc + 2) ⟨s.pc + 2, byte2 s, true⟩).execEdge
        (hiByte w) requestDataRow
      = (s.set .adr w).inCycle op 3 (s.pc + 2) ⟨w, s.answer w (byte2 s), true⟩ := by
  rw [State.execEdge, execTick_requestDataRow _ hop, State.tickDevices_of_read rfl]
  simp only [State.inCycle, State.setHalf, State.set, withPart, State.get, loByte_joinBytes,
    joinBytes_hiByte_loByte, readOf]
  rfl

/-- The last edge of a load holds the answered data read of the edge before it, so the devices only
answer it again (20_memory.md rules R83, R94). -/
theorem execEdge_receiveRow {s : State} {op n : Byte} {h : Half} {pc A : Word} (D : Byte)
    (hop : op ≠ 0) (hpc : h.reg ≠ .pc) :
    (s.inCycle op n pc ⟨A, s.answer A D, true⟩).execEdge (s.answer A D) (receiveRow h)
      = { s.setHalf h (s.answer A D) with
          state := 0, opcode := 0, fetch := true, pc := pc + 1, bus := ⟨A, s.answer A D, true⟩ } := by
  have answered : (s.setHalf h (s.answer A D)).answer A (s.answer A D) = s.answer A D :=
    (State.answer_congr (s.setHalf_devices h _) A _).trans (s.answer_answer A D)
  rw [State.execEdge, execTick_receiveRow _ hop hpc, State.setHalf_inCycle hpc,
    State.tickDevices_of_holdsRead (A := A) ⟨⟨rfl, rfl⟩, answered⟩]
  rfl

/-- Cycle 2 of a store with the devices' tick: the write is on the bus for this one edge
(42_absolute_load_store.md rule R231). -/
theorem execEdge_sendHalfRow {s : State} {op : Byte} {h : Half} (w : Word) (hop : op ≠ 0)
    (hpc : h.reg ≠ .pc) (hadr : h.reg ≠ .adr) :
    ((s.setHalf ⟨.adr, .lo⟩ (loByte w)).inCycle op 2 (s.pc + 2) ⟨s.pc + 2, byte2 s, true⟩).execEdge
        (hiByte w) (sendHalfRow h)
      = State.storeByte { s with
          adr := w, state := 0, opcode := 0, fetch := true, pc := s.pc + 3
          bus := ⟨w, s.getHalf h, false⟩ } w (s.getHalf h) := by
  have pcNext : s.pc + 2 + 1 = s.pc + 3 := BitVec.add_assoc _ _ _
  rw [State.execEdge, execTick_sendHalfRow _ hop hadr, State.tickDevices_of_write rfl,
    State.getHalf_inCycle hpc, s.getHalf_setHalf_otherReg (k := ⟨.adr, .lo⟩) hadr]
  simp only [State.inCycle, State.setHalf, State.set, withPart, State.get, loByte_joinBytes,
    joinBytes_hiByte_loByte, pcNext]

/-- What memory a state shows after a store, measured from a state with the same devices
(20_memory.md rules R85, R101). -/
theorem storesOnly_storeByte {s t : State} (ht : t.devices = s.devices) (A : Word) (v : Byte) :
    StoresOnly s (t.storeByte A v) A v := by
  have writable : t.writableAt A = s.writableAt A := by rw [State.writableAt, ht, State.writableAt]
  refine ⟨?written, fun B hB => ?kept, ?platform⟩
  case written => rw [t.memRead_storeByte_same, writable, State.memRead_congr ht]
  case kept => rw [t.memRead_storeByte_other v hB, State.memRead_congr ht]
  case platform => rw [t.storeByte_cfgs, ht]

/-! ### Instructions whose operand is an address -/

/-- What the opcode table says of an instruction that builds `abs16` in `adr` and then runs `rows`
(40_controller.md rule R181). -/
structure IsAddressRow (op : Byte) (mk : Word → Instr) (rows : List Row) : Prop where
  encode_eq : ∀ abs16, encode (mk abs16) = [op, loByte abs16, hiByte abs16]
  handlerRows_eq : ∀ abs16, handlerRows (mk abs16) = requestRow :: latchLowRow .adr :: rows
  opcodeInstr_eq : opcodeInstr op = some (mk 0)
  opcode_ne_zero : op ≠ 0

section
variable {op : Byte} {mk : Word → Instr} {rows : List Row} {s : State}

theorem IsAddressRow.cycles_eq (h : IsAddressRow op mk rows) (abs16 : Word) :
    execCycles (mk abs16) = rows.length + 2 := by
  rw [← handlerRows_length, h.handlerRows_eq, List.length_cons, List.length_cons]

theorem IsAddressRow.tick_eq (h : IsAddressRow op mk rows) {n : Byte} {row : Row}
    (hs : InFlight s op n)
    (hrow : (requestRow :: latchLowRow .adr :: rows)[n.toNat]? = some row) :
    s.tick = .next (s.execTick s.bus.data row) :=
  hs.tick_eq h.opcode_ne_zero h.opcodeInstr_eq (h.handlerRows_eq 0 ▸ hrow)

theorem IsAddressRow.tick_zero (h : IsAddressRow op mk rows) (hs : InFlight s op 0) :
    s.tick = .next
      { s with opcode := op, state := 1, pc := s.pc + 1, bus := readOf s (s.pc + 1) } :=
  hs.tick_requestRow h.opcode_ne_zero h.opcodeInstr_eq (h.handlerRows_eq 0 ▸ rfl)

theorem IsAddressRow.tick_one (h : IsAddressRow op mk rows) (hs : InFlight s op 1) :
    s.tick = .next { s with adr := joinBytes (hiByte s.adr) s.bus.data
                            state := 2, pc := s.pc + 1, bus := readOf s (s.pc + 1) } := by
  have hop : s.opcode ≠ 0 := hs.opcode_ne_zero (by decide) h.opcode_ne_zero
  have htick := h.tick_eq hs rfl
  obtain ⟨-, -, hstate, -⟩ := hs
  rw [htick, execTick_latchLowRow _ hop (by decide), hstate]
  rfl

/-- The meaning is the run of the own rows, from where `adr` has its low half. -/
theorem IsAddressRow.exec_eq (h : IsAddressRow op mk rows) (abs16 : Word) :
    exec (mk abs16) s = .next (State.runRows [hiByte abs16] rows
      ((s.setHalf ⟨.adr, .lo⟩ (loByte abs16)).inCycle op 2 (s.pc + 2)
        ⟨s.pc + 2, byte2 s, true⟩)) := by
  rw [exec_eq_run, h.encode_eq, h.handlerRows_eq, run_operand _ _ _ h.opcode_ne_zero (by decide)]

end

/-! ### `LD h, abs16` -/

/-- A load of the half `h` (42_absolute_load_store.md rule R220), which is no half of `pc` or `adr`
(decision D4). -/
structure IsLoadRow (op : Byte) (mk : Word → Instr) (h : Half) : Prop where
  address : IsAddressRow op mk [requestDataRow, receiveRow h]
  half_ne_pc : h.reg ≠ .pc
  half_ne_adr : h.reg ≠ .adr

theorem isLoadRow_of_mem : ∀ e ∈ loadTable, IsLoadRow e.1 e.2.1 e.2.2 := by
  simp only [loadTable, List.forall_mem_cons, List.not_mem_nil, false_implies, implies_true, and_true]
  refine ⟨?al, ?ah, ?bl, ?bh, ?xl, ?xh, ?yl, ?yh⟩
  all_goals exact ⟨⟨fun _ => rfl, fun _ => loadRows_eq _, rfl, by decide⟩, by decide, by decide⟩

section
variable {op : Byte} {mk : Word → Instr} {h : Half} {s : State}

theorem IsLoadRow.tick_two (hld : IsLoadRow op mk h) (hs : InFlight s op 2) :
    s.tick = .next { s with adr := joinBytes s.bus.data (loByte s.adr), state := 3
                            bus := readOf s (joinBytes s.bus.data (loByte s.adr)) } := by
  have hop : s.opcode ≠ 0 := hs.opcode_ne_zero (by decide) hld.address.opcode_ne_zero
  have htick := hld.address.tick_eq hs rfl
  obtain ⟨-, -, hstate, -⟩ := hs
  rw [htick, execTick_requestDataRow _ hop, hstate]
  rfl

theorem IsLoadRow.tick_three (hld : IsLoadRow op mk h) (hs : InFlight s op 3) :
    s.tick = .next { s.setHalf h s.bus.data with
      state := 0, opcode := 0, fetch := true, pc := s.pc + 1 } := by
  have hop : s.opcode ≠ 0 := hs.opcode_ne_zero (by decide) hld.address.opcode_ne_zero
  rw [hld.address.tick_eq hs rfl, execTick_receiveRow _ hop hld.half_ne_pc]

theorem IsLoadRow.exec_eq (hld : IsLoadRow op mk h) (abs16 : Word) (hf : s.fetch = true) :
    exec (mk abs16) s = .next { s.setHalf h (s.answer abs16 (byte2 s)) with
      adr := abs16, pc := s.pc + 3, opcode := 0, state := 0
      bus := ⟨abs16, s.answer abs16 (byte2 s), true⟩ } := by
  have hop := hld.address.opcode_ne_zero
  have pcNext : s.pc + 2 + 1 = s.pc + 3 := BitVec.add_assoc _ _ _
  have fetching : (s.setHalf h (s.answer abs16 (byte2 s))).fetch = true :=
    (s.setHalf_fetch h _).trans hf
  have lastEdge := execEdge_receiveRow (s := s.set .adr abs16) (n := 3) (pc := s.pc + 2) (A := abs16)
    (byte2 s) hop hld.half_ne_pc
  rw [State.answer_congr (s.set_devices .adr abs16), State.setHalf_set_adr hld.half_ne_adr]
    at lastEdge
  rw [hld.address.exec_eq, State.runRows_cons, List.headD_cons, execEdge_requestDataRow _ hop,
    State.runRows_cons, State.runRows_nil, List.tail_cons, List.headD_nil]
  refine congrArg _ (lastEdge.trans ?_)
  simp only [State.set, pcNext, fetching]

end

/-! ### `ST h, abs16` -/

/-- A store of the half `h` (42_absolute_load_store.md rule R230), which is no half of `pc` or `adr`
(decision D4). -/
structure IsStoreRow (op : Byte) (mk : Word → Instr) (h : Half) : Prop where
  address : IsAddressRow op mk [sendHalfRow h]
  half_ne_pc : h.reg ≠ .pc
  half_ne_adr : h.reg ≠ .adr

theorem isStoreRow_of_mem : ∀ e ∈ storeTable, IsStoreRow e.1 e.2.1 e.2.2 := by
  simp only [storeTable, List.forall_mem_cons, List.not_mem_nil, false_implies, implies_true, and_true]
  refine ⟨?al, ?ah, ?bl, ?bh, ?xl, ?xh, ?yl, ?yh⟩
  all_goals exact ⟨⟨fun _ => rfl, fun _ => storeRows_eq _, rfl, by decide⟩, by decide, by decide⟩

section
variable {op : Byte} {mk : Word → Instr} {h : Half} {s : State}

theorem IsStoreRow.tick_two (hst : IsStoreRow op mk h) (hs : InFlight s op 2) :
    s.tick = .next { s with
      adr := joinBytes s.bus.data (loByte s.adr), state := 0, opcode := 0, fetch := true
      pc := s.pc + 1, bus := ⟨joinBytes s.bus.data (loByte s.adr), s.getHalf h, false⟩ } := by
  have hop : s.opcode ≠ 0 := hs.opcode_ne_zero (by decide) hst.address.opcode_ne_zero
  rw [hst.address.tick_eq hs rfl, execTick_sendHalfRow _ hop hst.half_ne_adr]

theorem IsStoreRow.exec_eq (hst : IsStoreRow op mk h) (abs16 : Word) (hf : s.fetch = true) :
    exec (mk abs16) s = .next (State.storeByte { s with
      adr := abs16, pc := s.pc + 3, opcode := 0, state := 0
      bus := ⟨abs16, s.getHalf h, false⟩ } abs16 (s.getHalf h)) := by
  rw [hst.address.exec_eq, State.runRows_cons, State.runRows_nil, List.headD_cons,
    execEdge_sendHalfRow _ hst.address.opcode_ne_zero hst.half_ne_pc hst.half_ne_adr, hf]

end

end Sys2Proof.Claims

namespace Sys2Proof.Proofs

open Sys2Proof Sys2Proof.Machine Sys2Proof.Claims

/-- Settles O35: each row of the table is a load; its four ticks are the operand protocol into `adr`, the
request of the data byte and its receipt, its meaning is their run, and no cycle of it writes to
memory. -/
theorem loadReadsTheAbsoluteAddress : Obligations.LoadReadsTheAbsoluteAddress := by
  intro e he
  have hld := isLoadRow_of_mem e he
  refine ⟨fun abs16 => ?row, fun s hs => ?cycle0, fun s hs => ?cycle1, fun s hs => ?cycle2,
    fun s hs => ?cycle3, fun s abs16 ⟨hf, _⟩ => ⟨?result, ?memory⟩⟩
  case row => exact ⟨hld.address.encode_eq abs16, hld.address.cycles_eq abs16⟩
  case cycle0 => exact hld.address.tick_zero hs
  case cycle1 => exact hld.address.tick_one hs
  case cycle2 => exact hld.tick_two hs
  case cycle3 => exact hld.tick_three hs
  case result => exact hld.exec_eq abs16 hf
  case memory => exact State.memRead_congr (s.setHalf_devices e.2.2 _)

/-- Settles O36: each row of the table is a store; its three ticks are the operand protocol into `adr`
that ends in the write, and its meaning is their run, whose last edge stores the one byte. -/
theorem storeWritesTheAbsoluteAddress : Obligations.StoreWritesTheAbsoluteAddress := by
  intro e he
  have hst := isStoreRow_of_mem e he
  refine ⟨fun abs16 => ?row, fun s hs => ?cycle0, fun s hs => ?cycle1, fun s hs => ?cycle2,
    fun s abs16 ⟨hf, _⟩ => ⟨_, hst.exec_eq abs16 hf, ?registers, ?memory⟩⟩
  case row => exact ⟨hst.address.encode_eq abs16, hst.address.cycles_eq abs16⟩
  case cycle0 => exact hst.address.tick_zero hs
  case cycle1 => exact hst.address.tick_one hs
  case cycle2 => exact hst.tick_two hs
  case registers => rfl
  case memory => exact storesOnly_storeByte rfl abs16 (s.getHalf e.2.2)

end Sys2Proof.Proofs
end

section
/-! PROOFS. `LX h` and `LY h`: a read at the address in a pointer register and the receipt of its byte
(43_indirect_load.md rules R250 and R251). -/

namespace Sys2Proof.Machine

/-- Cycle 0 of an indirect load: the read at the pointer is issued. -/
def requestAtRow (p : Reg) : Row := fun _ s => s.busRead (s.get p)

theorem indirectRows_eq (p : Reg) (h : Half) : indirectRows p h = [requestAtRow p, receiveRow h] := rfl

/-- Inside an instruction and before its first operand byte every register is as at the boundary. -/
theorem State.get_inCycle_pc (s : State) (op n : Byte) (bus : Bus) (r : Reg) :
    (s.inCycle op n s.pc bus).get r = s.get r := by
  cases r <;> rfl

end Sys2Proof.Machine

namespace Sys2Proof.Claims

open Sys2Proof Sys2Proof.Machine

/-! ### Instructions of one byte -/

/-- What the opcode table says of an instruction without operand bytes (30_encoding.md rule R126) that
runs `rows`. -/
structure IsByteRow (op : Byte) (i : Instr) (rows : List Row) : Prop where
  encode_eq : encode i = [op]
  handlerRows_eq : handlerRows i = rows
  opcodeInstr_eq : opcodeInstr op = some i
  opcode_ne_zero : op ≠ 0

section
variable {op : Byte} {i : Instr} {rows : List Row} {s : State}

theorem IsByteRow.cycles_eq (h : IsByteRow op i rows) : execCycles i = rows.length := by
  rw [← handlerRows_length, h.handlerRows_eq]

theorem IsByteRow.tick_eq (h : IsByteRow op i rows) {n : Byte} {row : Row} (hs : InFlight s op n)
    (hrow : rows[n.toNat]? = some row) : s.tick = .next (s.execTick s.bus.data row) :=
  hs.tick_eq h.opcode_ne_zero h.opcodeInstr_eq (h.handlerRows_eq ▸ hrow)

/-- The meaning is the run of the rows, from the fetch edge. -/
theorem IsByteRow.exec_eq (h : IsByteRow op i rows) :
    exec i s = .next (State.runRows [op] rows (s.inCycle 0 0 s.pc ⟨s.pc, byte0 s, true⟩)) := by
  rw [exec_eq_run, h.encode_eq, h.handlerRows_eq, State.run_eq, fetchEdge_inCycle]

end

/-! ### The cycle that reads at the pointer -/

theorem execTick_requestAtRow {s : State} {op : Byte} (p : Reg) (hop : op ≠ 0)
    (hunset : s.opcode = 0) :
    s.execTick op (requestAtRow p)
      = { s with opcode := op, state := s.state + 1, bus := readOf s (s.get p) } := by
  have kept : State.get { s with opcode := op } p = s.get p := by cases p <;> rfl
  unfold State.execTick requestAtRow
  rw [State.latchOpcode_unset op hunset, kept]
  exact State.countCycle_set hop

/-- Cycle 0 with the devices' answer: where no device claims the pointer's value, the opcode byte stays
on the bus (43_indirect_load.md rule R251 case (2); log 7). -/
theorem execEdge_requestAtRow {s : State} {op : Byte} (p : Reg) (hop : op ≠ 0) :
    (s.inCycle 0 0 s.pc ⟨s.pc, byte0 s, true⟩).execEdge op (requestAtRow p)
      = s.inCycle op 1 s.pc ⟨s.get p, s.answer (s.get p) (byte0 s), true⟩ := by
  rw [State.execEdge, execTick_requestAtRow p hop rfl, State.get_inCycle_pc,
    State.tickDevices_of_read rfl]
  rfl

/-! ### `LX h` and `LY h` -/

/-- A load of the half `h` through the pointer `p` (43_indirect_load.md rule R250). The half may be one
of the pointer's own (rule R251 case (1)) and is none of `pc` (decision D4). -/
structure IsIndirectRow (op : Byte) (i : Instr) (p : Reg) (h : Half) : Prop where
  byteRow : IsByteRow op i [requestAtRow p, receiveRow h]
  half_ne_pc : h.reg ≠ .pc

theorem isIndirectRow_of_mem : ∀ e ∈ indirectTable, IsIndirectRow e.1 e.2.1 e.2.2.1 e.2.2.2 := by
  simp only [indirectTable, List.forall_mem_cons, List.not_mem_nil, false_implies, implies_true,
    and_true]
  refine ⟨?xal, ?xah, ?xbl, ?xbh, ?xxl, ?xxh, ?xyl, ?xyh, ?yal, ?yah, ?ybl, ?ybh, ?yxl, ?yxh, ?yyl,
    ?yyh⟩
  all_goals exact ⟨⟨rfl, indirectRows_eq _ _, rfl, by decide⟩, by decide⟩

section
variable {op : Byte} {i : Instr} {p : Reg} {h : Half} {s : State}

theorem IsIndirectRow.tick_zero (hld : IsIndirectRow op i p h) (hs : InFlight s op 0) :
    s.tick = .next { s with opcode := op, state := 1, bus := readOf s (s.get p) } := by
  have htick := hld.byteRow.tick_eq hs rfl
  obtain ⟨-, -, hstate, hunset, hdata⟩ := hs
  rw [htick, hdata, execTick_requestAtRow p hld.byteRow.opcode_ne_zero hunset, hstate]
  rfl

theorem IsIndirectRow.tick_one (hld : IsIndirectRow op i p h) (hs : InFlight s op 1) :
    s.tick = .next { s.setHalf h s.bus.data with
      state := 0, opcode := 0, fetch := true, pc := s.pc + 1 } := by
  have hop : s.opcode ≠ 0 := hs.opcode_ne_zero (by decide) hld.byteRow.opcode_ne_zero
  rw [hld.byteRow.tick_eq hs rfl, execTick_receiveRow _ hop hld.half_ne_pc]

/-- The address is the pointer's value at cycle 0, and only cycle 1 writes the half, so a half of the
pointer itself is loaded from where the whole pointer pointed. -/
theorem IsIndirectRow.exec_eq (hld : IsIndirectRow op i p h) (hf : s.fetch = true) :
    exec i s = .next { s.setHalf h (s.answer (s.get p) (byte0 s)) with
      pc := s.pc + 1, opcode := 0, state := 0
      bus := ⟨s.get p, s.answer (s.get p) (byte0 s), true⟩ } := by
  have hop := hld.byteRow.opcode_ne_zero
  have fetching : (s.setHalf h (s.answer (s.get p) (byte0 s))).fetch = true :=
    (s.setHalf_fetch h _).trans hf
  rw [hld.byteRow.exec_eq, State.runRows_cons, List.headD_cons, execEdge_requestAtRow p hop,
    State.runRows_cons, State.runRows_nil, List.tail_cons, List.headD_nil]
  refine congrArg _ ((execEdge_receiveRow (byte0 s) hop hld.half_ne_pc).trans ?_)
  simp only [fetching]

end

end Sys2Proof.Claims

namespace Sys2Proof.Proofs

open Sys2Proof Sys2Proof.Machine Sys2Proof.Claims

/-- Settles O37: each row of the table is a load through a pointer; its two ticks are the request at the
pointer's value and the receipt of the byte, its meaning is their run, and no cycle of it writes to
memory. -/
theorem indirectLoadReadsThePointer : Obligations.IndirectLoadReadsThePointer := by
  intro e he
  have hld := isIndirectRow_of_mem e he
  refine ⟨hld.byteRow.encode_eq, hld.byteRow.cycles_eq, fun s hs => ?cycle0, fun s hs => ?cycle1,
    fun s ⟨hf, _⟩ => ⟨?result, ?memory⟩⟩
  case cycle0 => exact hld.tick_zero hs
  case cycle1 => exact hld.tick_one hs
  case result => exact hld.exec_eq hf
  case memory => exact State.memRead_congr (s.setHalf_devices e.2.2.2 _)

end Sys2Proof.Proofs
end

section
/-! PROOFS. `ADD`, `SUB`, `MUL`, `DIV` and the pointer steps: one exec cycle that writes one register and
ends the instruction, or the fault of a division by zero (44_alu_and_pointer.md rules R280 to R290). -/

namespace Sys2Proof.Machine

/-! ### The row that writes a register and ends the instruction -/

/-- The only cycle of an instruction that computes `value` into the register `r`. -/
def writeRow (r : Reg) (value : State → Word) : Row := fun _ s => (s.set r (value s)).advance

/-- The only cycle of `DIV` (44_alu_and_pointer.md rule R284). -/
def divRow : Row :=
  fun D s => if s.b = 0 then s.raise .divideByZero D else writeRow .a (fun s => s.a / s.b) D s

theorem divRows_eq : divRows = [divRow] := rfl

/-- A value that is computed from the register file alone. -/
def ReadsRegisters (value : State → Word) : Prop :=
  ∀ ⦃s t : State⦄, (∀ r : Reg, t.get r = s.get r) → value t = value s

theorem State.get_latchOpcode (s : State) (D : Byte) (r : Reg) :
    (s.latchOpcode D).get r = s.get r := by
  cases r <;> simp

theorem State.set_inCycle {r : Reg} (hr : r ≠ .pc) (s : State) (op n : Byte) (pc : Word) (bus : Bus)
    (v : Word) : (s.inCycle op n pc bus).set r v = (s.set r v).inCycle op n pc bus := by
  cases r with
  | pc => exact absurd rfl hr
  | stk | adr | a | b | x | y => rfl

end Sys2Proof.Machine

namespace Sys2Proof.Claims

open Sys2Proof Sys2Proof.Machine

/-! ### The cycle and the edge of that row -/

section
variable {s : State} {r : Reg} {value : State → Word}

/-- The value is read after the latch of the opcode, which changes no register; `advance` unsets the
opcode, so nothing is counted. -/
theorem execTick_writeRow (D : Byte) (hr : r ≠ .pc) (hv : ReadsRegisters value) :
    s.execTick D (writeRow r value)
      = { s.set r (value s) with pc := s.pc + 1, fetch := true, state := 0, opcode := 0 } := by
  have kept : value (s.latchOpcode D) = value s := hv (s.get_latchOpcode D)
  unfold State.execTick writeRow
  rw [kept, State.countCycle_unset rfl]
  cases r with
  | pc => exact absurd rfl hr
  | stk | adr | a | b | x | y => simp [State.advance, State.set]

/-- The edge holds the answered fetch read of the edge before it, so the devices only answer it again
(20_memory.md rules R83, R94). -/
theorem execEdge_writeRow (D : Byte) (hr : r ≠ .pc) (hv : ReadsRegisters value)
    (hf : s.fetch = true) :
    (s.inCycle 0 0 s.pc ⟨s.pc, byte0 s, true⟩).execEdge D (writeRow r value)
      = { s.set r (value s) with
          pc := s.pc + 1, opcode := 0, state := 0, bus := ⟨s.pc, byte0 s, true⟩ } := by
  have kept : value (s.inCycle 0 0 s.pc ⟨s.pc, byte0 s, true⟩) = value s :=
    hv (s.get_inCycle_pc 0 0 _)
  have fetching : (s.set r (value s)).fetch = true := (s.set_fetch r _).trans hf
  have answered : (s.set r (value s)).answer s.pc (byte0 s) = byte0 s :=
    (State.answer_congr (s.set_devices r _) _ _).trans (s.answer_answer _ _)
  rw [State.execEdge, execTick_writeRow D hr hv, kept, State.set_inCycle hr,
    State.tickDevices_of_holdsRead (A := s.pc) ⟨⟨rfl, rfl⟩, answered⟩]
  simp only [State.inCycle, fetching]

end

/-! ### Instructions of one exec cycle -/

section
variable {op : Byte} {i : Instr} {r : Reg} {value : State → Word} {row : Row} {s : State}

theorem IsByteRow.exec_single (h : IsByteRow op i [row]) :
    exec i s = .next ((s.inCycle 0 0 s.pc ⟨s.pc, byte0 s, true⟩).execEdge op row) :=
  h.exec_eq

/-- What the opcode table says of an instruction whose one cycle writes `value` to `r`. -/
structure IsWriteRow (op : Byte) (i : Instr) (r : Reg) (value : State → Word) : Prop where
  byteRow : IsByteRow op i [writeRow r value]
  target_ne_pc : r ≠ .pc
  readsRegisters : ReadsRegisters value

/-- Before cycle 0 the opcode and the count are unset, and `advance` leaves them so. -/
theorem InFlight.cycleZero_writeRow (hs : InFlight s op 0) (hr : r ≠ .pc) (hv : ReadsRegisters value) :
    s.execTick s.bus.data (writeRow r value)
      = { s.set r (value s) with pc := s.pc + 1, fetch := true } := by
  obtain ⟨-, -, hstate, hunset, -⟩ := hs
  rw [execTick_writeRow _ hr hv]
  simp only [State.set_opcode, State.set_state, hunset, hstate]

theorem IsWriteRow.tick_zero (h : IsWriteRow op i r value) (hs : InFlight s op 0) :
    s.tick = .next { s.set r (value s) with pc := s.pc + 1, fetch := true } := by
  rw [h.byteRow.tick_eq hs rfl, hs.cycleZero_writeRow h.target_ne_pc h.readsRegisters]

theorem IsWriteRow.exec_eq (h : IsWriteRow op i r value) (hf : s.fetch = true) :
    exec i s = .next { s.set r (value s) with
      pc := s.pc + 1, opcode := 0, state := 0, bus := ⟨s.pc, byte0 s, true⟩ } := by
  rw [h.byteRow.exec_single, execEdge_writeRow op h.target_ne_pc h.readsRegisters hf]

end

/-! ### Word arithmetic is integer arithmetic modulo 65536 (rule R290) -/

theorem wrap_toNat (w : Word) : wrap w.toNat = w := by
  rw [wrap, BitVec.ofInt_natCast, BitVec.ofNat_toNat, BitVec.setWidth_eq]

theorem wrap_add (m n : Int) : wrap (m + n) = wrap m + wrap n := BitVec.ofInt_add m n

theorem wrap_mul (m n : Int) : wrap (m * n) = wrap m * wrap n := BitVec.ofInt_mul m n

theorem wrap_sub (m n : Int) : wrap (m - n) = wrap m - wrap n :=
  calc wrap (m + -n)
      = wrap m + wrap (-n) := wrap_add m (-n)
    _ = wrap m + -wrap n := congrArg _ BitVec.ofInt_neg
    _ = wrap m - wrap n := (BitVec.sub_eq_add_neg _ _).symm

theorem wrap_natDiv (v w : Word) : wrap (v.toNat / w.toNat : Nat) = v / w :=
  (BitVec.ofInt_natCast _ _).trans BitVec.udiv_def.symm

/-! ### `ADD`, `SUB` and `MUL` -/

/-- An integer operation on the unsigned values of a and b, modulo 65536. -/
def aluResult (f : Int → Int → Int) (s : State) : Word := wrap (f s.a.toNat s.b.toNat)

theorem aluResult_readsRegisters (f : Int → Int → Int) : ReadsRegisters (aluResult f) := by
  intro s t h
  have ha : t.a = s.a := h .a
  have hb : t.b = s.b := h .b
  rw [aluResult, ha, hb, aluResult]

/-- A word operation that is an integer operation modulo 65536 has the tick table of the latter. -/
theorem aluRows_eq {g : Word → Word → Word} {f : Int → Int → Int}
    (h : ∀ m n, wrap (f m n) = g (wrap m) (wrap n)) : aluRows g = [writeRow .a (aluResult f)] := by
  have result (s : State) : aluResult f s = g s.a s.b := by
    rw [aluResult, h, wrap_toNat, wrap_toNat]
  rw [funext result]
  rfl

theorem isWriteRow_of_mem_aluTable :
    ∀ e ∈ aluTable, IsWriteRow e.1 e.2.1 .a (aluResult e.2.2) := by
  simp only [aluTable, List.forall_mem_cons, List.not_mem_nil, false_implies, implies_true, and_true]
  refine ⟨?add, ?sub, ?mul⟩
  case add => exact ⟨⟨rfl, aluRows_eq wrap_add, rfl, by decide⟩, by decide, aluResult_readsRegisters _⟩
  case sub => exact ⟨⟨rfl, aluRows_eq wrap_sub, rfl, by decide⟩, by decide, aluResult_readsRegisters _⟩
  case mul => exact ⟨⟨rfl, aluRows_eq wrap_mul, rfl, by decide⟩, by decide, aluResult_readsRegisters _⟩

/-! ### `INCX`, `DECX`, `INCY` and `DECY` -/

/-- A step of the register `p` by an integer, modulo 65536. -/
def pointerStep (p : Reg) (k : Int) (s : State) : Word := wrap ((s.get p).toNat + k)

theorem pointerStep_readsRegisters (p : Reg) (k : Int) : ReadsRegisters (pointerStep p k) := by
  intro s t h
  rw [pointerStep, h p, pointerStep]

theorem pointerRows_eq (p : Reg) {move : Word → Word} {k : Int} (h : ∀ w, w + wrap k = move w) :
    pointerRows p move = [writeRow p (pointerStep p k)] := by
  have moved (s : State) : pointerStep p k s = move (s.get p) := by
    rw [pointerStep, wrap_add, wrap_toNat, h]
  rw [funext moved]
  rfl

theorem add_wrap_one (w : Word) : w + wrap 1 = w + 1 := rfl

theorem add_wrap_neg_one (w : Word) : w + wrap (-1) = w - 1 := (BitVec.sub_eq_add_neg w 1).symm

theorem isWriteRow_of_mem_pointerTable :
    ∀ e ∈ pointerTable, IsWriteRow e.1 e.2.1 e.2.2.1 (pointerStep e.2.2.1 e.2.2.2) := by
  simp only [pointerTable, List.forall_mem_cons, List.not_mem_nil, false_implies, implies_true,
    and_true]
  have up (p : Reg) := pointerRows_eq p add_wrap_one
  have down (p : Reg) := pointerRows_eq p add_wrap_neg_one
  refine ⟨?incx, ?decx, ?incy, ?decy⟩
  case incx => exact ⟨⟨rfl, up .x, rfl, by decide⟩, by decide, pointerStep_readsRegisters _ _⟩
  case decx => exact ⟨⟨rfl, down .x, rfl, by decide⟩, by decide, pointerStep_readsRegisters _ _⟩
  case incy => exact ⟨⟨rfl, up .y, rfl, by decide⟩, by decide, pointerStep_readsRegisters _ _⟩
  case decy => exact ⟨⟨rfl, down .y, rfl, by decide⟩, by decide, pointerStep_readsRegisters _ _⟩

/-! ### `DIV` -/

/-- The floor of the unsigned quotient of a and b, for b other than 0. -/
def quotient (s : State) : Word := wrap (s.a.toNat / s.b.toNat : Nat)

theorem quotient_readsRegisters : ReadsRegisters quotient := by
  intro s t h
  have ha : t.a = s.a := h .a
  have hb : t.b = s.b := h .b
  rw [quotient, ha, hb, quotient]

theorem isByteRow_div : IsByteRow 0x84 .div [divRow] := ⟨rfl, divRows_eq, rfl, by decide⟩

/-- With b other than 0 the cycle of `DIV` is that of an instruction that writes its quotient. -/
theorem execTick_divRow_of_ne_zero {s : State} (D : Byte) (hb : s.b ≠ 0) :
    s.execTick D divRow = s.execTick D (writeRow .a quotient) := by
  have result : quotient = fun s => s.a / s.b := funext fun s => wrap_natDiv s.a s.b
  have latched : (s.latchOpcode D).b ≠ 0 := by rwa [State.latchOpcode_b]
  rw [State.execTick, divRow, if_neg latched, result, State.execTick]

/-- With b = 0 the fault is raised with the opcode latched, so the cycle is counted
(60_exceptions.md rules R402, R403, R406). -/
theorem execTick_divRow_of_zero {s : State} {op : Byte} (hop : op ≠ 0) (hunset : s.opcode = 0)
    (hb : s.b = 0) :
    s.execTick op divRow
      = { s with opcode := op, state := s.state + 1, halt := true
                 log := s.log ++ [⟨.divideByZero, op, s.pc⟩] } := by
  rw [State.execTick, State.latchOpcode_unset op hunset, divRow, if_pos hb]
  exact State.countCycle_set hop

theorem tick_of_div {s : State} (hs : InFlight s 0x84 0) (hb : s.b ≠ 0) :
    s.tick = .next { s.set .a (quotient s) with pc := s.pc + 1, fetch := true } := by
  rw [isByteRow_div.tick_eq hs rfl, execTick_divRow_of_ne_zero _ hb,
    hs.cycleZero_writeRow (by decide) quotient_readsRegisters]

theorem tick_of_div_zero {s : State} (hs : InFlight s 0x84 0) (hb : s.b = 0) :
    s.tick = .next { s with opcode := 0x84, state := 1, halt := true
                            log := s.log ++ [⟨.divideByZero, 0x84, s.pc⟩] } := by
  have htick := isByteRow_div.tick_eq hs rfl
  obtain ⟨-, -, hstate, hunset, hdata⟩ := hs
  rw [htick, hdata, execTick_divRow_of_zero (by decide) hunset hb, hstate]
  rfl

theorem exec_div {s : State} (hf : s.fetch = true) (hb : s.b ≠ 0) :
    exec .div s = .next { s.set .a (quotient s) with
      pc := s.pc + 1, opcode := 0, state := 0, bus := ⟨s.pc, byte0 s, true⟩ } := by
  have fetched : (s.inCycle 0 0 s.pc ⟨s.pc, byte0 s, true⟩).b ≠ 0 := hb
  rw [isByteRow_div.exec_single, State.execEdge, execTick_divRow_of_ne_zero _ fetched]
  exact congrArg _ (execEdge_writeRow 0x84 (by decide) quotient_readsRegisters hf)

end Sys2Proof.Claims

namespace Sys2Proof.Proofs

open Sys2Proof Sys2Proof.Machine Sys2Proof.Claims

/-- Settles O38: each row of the table writes to `a` the integer result modulo 65536, and its only cycle
writes nothing to memory. -/
theorem arithmeticWrapsModulo65536 : Obligations.ArithmeticWrapsModulo65536 := by
  intro e he
  have halu := isWriteRow_of_mem_aluTable e he
  refine ⟨halu.byteRow.encode_eq, halu.byteRow.cycles_eq, fun s hs => ?cycle0,
    fun s ⟨hf, _⟩ => ⟨?result, ?memory⟩⟩
  case cycle0 => exact halu.tick_zero hs
  case result => exact halu.exec_eq hf
  case memory => exact State.memRead_congr (s.set_devices .a (aluResult e.2.2 s))

/-- Settles O39: the tick of `DIV` splits on b, and with b other than 0 its meaning is the edge that
writes the quotient. -/
theorem divisionTakesTheFloor : Obligations.DivisionTakesTheFloor := by
  refine ⟨isByteRow_div.encode_eq, isByteRow_div.cycles_eq, fun s hs => ?cycle0,
    fun s ⟨hf, _⟩ hb => ⟨?result, ?memory⟩⟩
  case cycle0 =>
    by_cases hb : s.b = 0
    · rw [if_pos hb]
      exact tick_of_div_zero hs hb
    · rw [if_neg hb]
      exact tick_of_div hs hb
  case result => exact exec_div hf hb
  case memory => exact State.memRead_congr (s.set_devices .a (quotient s))

/-- Settles O41: each row of the table writes to its pointer the pointer's own step, and no cycle of it
writes to memory. -/
theorem pointerStepsWrap : Obligations.PointerStepsWrap := by
  intro e he
  have hptr := isWriteRow_of_mem_pointerTable e he
  refine ⟨hptr.byteRow.encode_eq, hptr.byteRow.cycles_eq, fun s hs => ?cycle0,
    fun s ⟨hf, _⟩ => ⟨?result, ?memory⟩⟩
  case cycle0 => exact hptr.tick_zero hs
  case result => exact hptr.exec_eq hf
  case memory => exact State.memRead_congr (s.set_devices e.2.2.1 _)

end Sys2Proof.Proofs
end

section
/-! PROOFS. Relative and absolute jumps, `CALL` and `RET` (45_jumps_and_calls.md rules R300 to R313). -/

namespace Sys2Proof.Machine

/-! ### Control transfer -/

/-- The address less 1 that `pc` takes and the 1 of `advance()` cancel (45_jumps_and_calls.md rule
R300). -/
theorem State.jumpToAdr_eq (s : State) :
    s.jumpToAdr = { s with pc := s.adr, fetch := true, state := 0, opcode := 0 } := by
  have cancel : s.adr - 1 + 1 = s.adr := BitVec.sub_add_cancel _ _
  rw [State.jumpToAdr, State.advance, cancel]

/-- Where a relative jump goes from a displacement byte `D` that stands at `pc`. -/
def Cond.relTarget (c : Cond) (s : State) (pc : Word) (D : Byte) : Word :=
  pc + (if c.holds s then sext16 D else 0) + 1

/-- Where an absolute jump to `w` goes from a last operand byte that stands at `pc`. -/
def Cond.absTarget (c : Cond) (s : State) (pc w : Word) : Word := if c.holds s then w else pc + 1

/-! ### The own rows of the families -/

/-- Cycle 1 of a relative jump. -/
def relBranchRow (c : Cond) : Row :=
  fun D s => State.advance { s with pc := s.pc + if c.holds s then sext16 D else 0 }

/-- Cycle 2 of an absolute jump. -/
def absBranchRow (c : Cond) : Row :=
  latchHighRow .adr (fun s => if c.holds s then s.jumpToAdr else s.advance)

/-- Cycle 2 of `CALL`: the target is complete, and the high byte of the return address is pushed. -/
def pushHighRow : Row := latchHighRow .adr (fun s => s.pushByte (hiByte s.returnAddress))

/-- Cycle 3 of `CALL`: the low byte is pushed, and the jump is taken. -/
def pushLowRow : Row := fun _ s => (s.pushByte (loByte s.returnAddress)).jumpToAdr

/-- Cycle 0 of an instruction that pops: the first byte is requested. -/
def popRequestRow : Row := fun _ s => s.popRequest

/-- Cycle 1 of `RET`: the low byte has come, and the high one is requested. -/
def popLowRow : Row := fun D s => (s.setHalf ⟨.adr, .lo⟩ D).popRequest

/-- Cycle 2 of `RET`: the high byte has come, and the jump is taken. -/
def returnRow : Row := fun D s => (s.setHalf ⟨.adr, .hi⟩ D).jumpToAdr

theorem relJumpRows_eq (c : Cond) : relJumpRows c = [requestRow, relBranchRow c] := rfl

theorem absJumpRows_eq (c : Cond) :
    absJumpRows c = [requestRow, latchLowRow .adr, absBranchRow c] := rfl

theorem callRows_eq : callRows = [requestRow, latchLowRow .adr, pushHighRow, pushLowRow] := rfl

theorem retRows_eq : retRows = [popRequestRow, popLowRow, returnRow] := rfl

/-! ### A word on the stack -/

/-- Inside `RET` from a boundary state: both pop requests are issued, and the low byte has come. -/
def State.lowPopped (s : State) (low : Byte) : State :=
  { s with adr := joinBytes (hiByte s.adr) low, stk := s.stk + 2 }

/-- The stores after both bytes of `w` have been pushed from `A` on: the high byte at `A`, the low byte
one address below (45_jumps_and_calls.md rule R310). -/
def State.storeWord (s : State) (A w : Word) : State :=
  (s.storeByte A (hiByte w)).storeByte (A - 1) (loByte w)

theorem Word.ne_sub_one (A : Word) : A ≠ A - 1 := by bv_omega

theorem State.memRead_storeWord_hi (s : State) (A w : Word) :
    (s.storeWord A w).memRead A = if s.writableAt A then some (hiByte w) else s.memRead A := by
  rw [State.storeWord, State.memRead_storeByte_other _ _ (Word.ne_sub_one A),
    State.memRead_storeByte_same]

theorem State.memRead_storeWord_lo (s : State) (A w : Word) :
    (s.storeWord A w).memRead (A - 1)
      = if s.writableAt (A - 1) then some (loByte w) else s.memRead (A - 1) := by
  rw [State.storeWord, State.memRead_storeByte_same, State.writableAt_storeByte,
    State.memRead_storeByte_other _ _ (Word.ne_sub_one A).symm]

theorem State.memRead_storeWord_other (s : State) {A B : Word} (w : Word) (hA : B ≠ A)
    (hpred : B ≠ A - 1) : (s.storeWord A w).memRead B = s.memRead B := by
  rw [State.storeWord, State.memRead_storeByte_other _ _ hpred, State.memRead_storeByte_other _ _ hA]

theorem State.storeWord_cfgs (s : State) (A w : Word) :
    (s.storeWord A w).devices.map (fun d => d.cfg) = s.devices.map (fun d => d.cfg) := by
  rw [State.storeWord, State.storeByte_cfgs, State.storeByte_cfgs]

end Sys2Proof.Machine

namespace Sys2Proof.Claims

open Sys2Proof Sys2Proof.Machine

/-! ### Conditions and targets -/

/-- The comparison of words is that of their unsigned values (45_jumps_and_calls.md rule R301). -/
theorem holds_iff_condTrue (s : State) (c : Cond) : c.holds s = true ↔ condTrue s c := by
  cases c with
  | always => simp [Cond.holds, condTrue]
  | equal => simp [Cond.holds, condTrue, BitVec.toNat_inj]
  | greater => simp [Cond.holds, condTrue, BitVec.lt_def]
  | less => simp [Cond.holds, condTrue, BitVec.lt_def]

section
variable {s : State} {c : Cond}

theorem relTarget_of_condTrue (h : condTrue s c) (pc : Word) (D : Byte) :
    c.relTarget s pc D = wrap (pc.toNat + D.toInt + 1) := by
  rw [Cond.relTarget, if_pos ((holds_iff_condTrue s c).2 h), wrap_add, wrap_add, wrap_toNat]
  rfl

theorem relTarget_of_not_condTrue (h : ¬ condTrue s c) (pc : Word) (D : Byte) :
    c.relTarget s pc D = pc + 1 := by
  rw [Cond.relTarget, if_neg (mt (holds_iff_condTrue s c).1 h)]
  exact congrArg (· + 1) (BitVec.add_zero pc)

theorem absTarget_of_condTrue (h : condTrue s c) (pc w : Word) : c.absTarget s pc w = w :=
  if_pos ((holds_iff_condTrue s c).2 h)

theorem absTarget_of_not_condTrue (h : ¬ condTrue s c) (pc w : Word) :
    c.absTarget s pc w = pc + 1 :=
  if_neg (mt (holds_iff_condTrue s c).1 h)

end

/-- The displacement byte stands one address after the opcode. -/
theorem wrap_displacement (w : Word) (k : Int) :
    wrap ((w + 1).toNat + k + 1) = wrap (w.toNat + 2 + k) := by
  have two : wrap 2 = 1 + 1 := rfl
  have one : wrap 1 = 1 := rfl
  rw [wrap_add, wrap_add, wrap_toNat, wrap_add, wrap_add, wrap_toNat, two, one]
  ac_rfl

theorem wrap_next (w : Word) : wrap (w.toNat + 2) = w + 1 + 1 := by
  have two : wrap 2 = 1 + 1 := rfl
  rw [wrap_add, wrap_toNat, two, BitVec.add_assoc]

/-! ### The cycles of the own rows -/

section
variable {s : State}

theorem execTick_relBranchRow (c : Cond) (D : Byte) (hop : s.opcode ≠ 0) :
    s.execTick D (relBranchRow c)
      = { s with pc := c.relTarget s s.pc D, state := 0, opcode := 0, fetch := true } := by
  unfold State.execTick relBranchRow
  rw [State.latchOpcode_set D hop, State.countCycle_unset rfl]
  rfl

/-- The condition reads a and b, which the latch of the address leaves alone. -/
theorem execTick_absBranchRow (c : Cond) (D : Byte) (hop : s.opcode ≠ 0) :
    s.execTick D (absBranchRow c)
      = { s with adr := joinBytes D (loByte s.adr)
                 pc := c.absTarget s s.pc (joinBytes D (loByte s.adr))
                 state := 0, opcode := 0, fetch := true } := by
  have same : c.holds (s.setHalf ⟨.adr, .hi⟩ D) = c.holds s := rfl
  rw [absBranchRow, execTick_latchHighRow .adr _ D hop, same, Cond.absTarget]
  split
  · rw [State.jumpToAdr_eq, State.countCycle_unset rfl]
    rfl
  · rw [State.countCycle_unset rfl]
    rfl

theorem execTick_pushHighRow (D : Byte) (hop : s.opcode ≠ 0) :
    s.execTick D pushHighRow
      = { s with adr := joinBytes D (loByte s.adr), state := s.state + 1
                 stk := s.stk - 1, bus := ⟨s.stk, hiByte (s.pc + 1), false⟩ } := by
  rw [pushHighRow, execTick_latchHighRow .adr _ D hop]
  exact State.countCycle_set hop

theorem execTick_pushLowRow (D : Byte) (hop : s.opcode ≠ 0) :
    s.execTick D pushLowRow
      = { s with pc := s.adr, state := 0, opcode := 0, fetch := true
                 stk := s.stk - 1, bus := ⟨s.stk, loByte (s.pc + 1), false⟩ } := by
  unfold State.execTick pushLowRow
  rw [State.latchOpcode_set D hop, State.jumpToAdr_eq, State.countCycle_unset rfl]
  rfl

theorem execTick_popRequestRow {op : Byte} (hop : op ≠ 0) (hunset : s.opcode = 0) :
    s.execTick op popRequestRow
      = { s with opcode := op, state := s.state + 1
                 stk := s.stk + 1, bus := readOf s (s.stk + 1) } := by
  unfold State.execTick popRequestRow
  rw [State.latchOpcode_unset op hunset]
  exact State.countCycle_set hop

theorem execTick_popLowRow (D : Byte) (hop : s.opcode ≠ 0) :
    s.execTick D popLowRow
      = { s with adr := joinBytes (hiByte s.adr) D, state := s.state + 1
                 stk := s.stk + 1, bus := readOf s (s.stk + 1) } := by
  unfold State.execTick popLowRow
  rw [State.latchOpcode_set D hop]
  exact State.countCycle_set hop

theorem execTick_returnRow (D : Byte) (hop : s.opcode ≠ 0) :
    s.execTick D returnRow
      = { s with adr := joinBytes D (loByte s.adr), pc := joinBytes D (loByte s.adr)
                 state := 0, opcode := 0, fetch := true } := by
  unfold State.execTick returnRow
  rw [State.latchOpcode_set D hop, State.jumpToAdr_eq, State.countCycle_unset rfl]
  rfl

end

/-! ### The edges of the own rows -/

section
variable {s : State} {op : Byte}

/-- The last edge of a jump holds the answered operand read of the edge before it, so the devices only
answer it again (20_memory.md rules R83, R94). -/
theorem execEdge_relBranchRow (c : Cond) (D : Byte) (hop : op ≠ 0) :
    (s.inCycle op 1 (s.pc + 1) ⟨s.pc + 1, byte1 s, true⟩).execEdge D (relBranchRow c)
      = { s with pc := c.relTarget s (s.pc + 1) D, state := 0, opcode := 0, fetch := true
                 bus := ⟨s.pc + 1, byte1 s, true⟩ } := by
  have answered : s.answer (s.pc + 1) (byte1 s) = byte1 s := s.answer_answer _ _
  rw [State.execEdge, execTick_relBranchRow c D hop,
    State.tickDevices_of_holdsRead (A := s.pc + 1) ⟨⟨rfl, rfl⟩, answered⟩]
  rfl

theorem execEdge_absBranchRow (c : Cond) (w : Word) (hop : op ≠ 0) :
    ((s.setHalf ⟨.adr, .lo⟩ (loByte w)).inCycle op 2 (s.pc + 2) ⟨s.pc + 2, byte2 s, true⟩).execEdge
        (hiByte w) (absBranchRow c)
      = { s with adr := w, pc := c.absTarget s (s.pc + 2) w, state := 0, opcode := 0, fetch := true
                 bus := ⟨s.pc + 2, byte2 s, true⟩ } := by
  have answered : s.answer (s.pc + 2) (byte2 s) = byte2 s := s.answer_answer _ _
  rw [State.execEdge, execTick_absBranchRow c _ hop,
    State.tickDevices_of_holdsRead (A := s.pc + 2) ⟨⟨rfl, rfl⟩, answered⟩]
  simp only [State.inCycle, State.setHalf, State.set, withPart, State.get, loByte_joinBytes,
    joinBytes_hiByte_loByte]
  rfl

/-- Cycle 2 of `CALL` with the devices' tick: `w` is in `adr`, and the high byte of the return address
is stored where stk stood (46_stack.md rule R330). -/
theorem execEdge_pushHighRow (w : Word) (hop : op ≠ 0) :
    ((s.setHalf ⟨.adr, .lo⟩ (loByte w)).inCycle op 2 (s.pc + 2) ⟨s.pc + 2, byte2 s, true⟩).execEdge
        (hiByte w) pushHighRow
      = (State.inCycle { s with adr := w, stk := s.stk - 1 } op 3 (s.pc + 2)
          ⟨s.stk, hiByte (s.pc + 3), false⟩).storeByte s.stk (hiByte (s.pc + 3)) := by
  have pcNext : s.pc + 2 + 1 = s.pc + 3 := BitVec.add_assoc _ _ _
  rw [State.execEdge, execTick_pushHighRow _ hop, State.tickDevices_of_write rfl]
  simp only [State.inCycle, State.setHalf, State.set, withPart, State.get, loByte_joinBytes,
    joinBytes_hiByte_loByte, pcNext]
  rfl

/-- Cycle 3 of `CALL` with the devices' tick: the low byte is stored, and the instruction ends. -/
theorem execEdge_pushLowRow {n : Byte} {pc : Word} {bus : Bus} (D : Byte) (A : Word) (v : Byte)
    (hop : op ≠ 0) :
    ((s.inCycle op n pc bus).storeByte A v).execEdge D pushLowRow
      = (State.storeByte { s with
          pc := s.adr, state := 0, opcode := 0, fetch := true, stk := s.stk - 1
          bus := ⟨s.stk, loByte (pc + 1), false⟩ } A v).storeByte s.stk (loByte (pc + 1)) := by
  rw [State.execEdge, execTick_pushLowRow D hop, State.tickDevices_of_write rfl]
  rfl

/-- Cycle 0 of a pop with the devices' answer: where no device claims the address above stk, the opcode
byte stays on the bus (46_stack.md rule R341; log 7). -/
theorem execEdge_popRequestRow (hop : op ≠ 0) :
    (s.inCycle 0 0 s.pc ⟨s.pc, byte0 s, true⟩).execEdge op popRequestRow
      = State.inCycle { s with stk := s.stk + 1 } op 1 s.pc
          ⟨s.stk + 1, s.answer (s.stk + 1) (byte0 s), true⟩ := by
  rw [State.execEdge, execTick_popRequestRow hop rfl, State.tickDevices_of_read rfl]
  rfl

/-- Cycle 1 of `RET` with the devices' answer: an unclaimed address leaves the low byte on the bus
(log 7). -/
theorem execEdge_popLowRow (low : Byte) (hop : op ≠ 0) :
    (State.inCycle { s with stk := s.stk + 1 } op 1 s.pc ⟨s.stk + 1, low, true⟩).execEdge low popLowRow
      = (s.lowPopped low).inCycle op 2 s.pc ⟨s.stk + 2, s.answer (s.stk + 2) low, true⟩ := by
  have stkNext : s.stk + 1 + 1 = s.stk + 2 := BitVec.add_assoc _ _ _
  rw [State.execEdge, execTick_popLowRow low hop, State.tickDevices_of_read rfl, State.lowPopped,
    ← stkNext]
  rfl

/-- The last edge of `RET` holds an answered read, so the devices only answer it again (20_memory.md
rules R83, R94). -/
theorem execEdge_returnRow {n : Byte} {pc A : Word} {D : Byte} (hop : op ≠ 0)
    (answered : s.answer A D = D) :
    (s.inCycle op n pc ⟨A, D, true⟩).execEdge D returnRow
      = { s with
          adr := joinBytes D (loByte s.adr), pc := joinBytes D (loByte s.adr)
          state := 0, opcode := 0, fetch := true, bus := ⟨A, D, true⟩ } := by
  rw [State.execEdge, execTick_returnRow _ hop,
    State.tickDevices_of_holdsRead (A := A) ⟨⟨rfl, rfl⟩, answered⟩]
  rfl

end

/-! ### Relative jumps -/

/-- What the opcode table says of a jump by a displacement (45_jumps_and_calls.md rule R302). -/
structure IsRelJumpRow (op : Byte) (mk : Byte → Instr) (c : Cond) : Prop where
  encode_eq : ∀ rel8, encode (mk rel8) = [op, rel8]
  cycles_eq : ∀ rel8, execCycles (mk rel8) = 2
  handlerRows_eq : ∀ rel8, handlerRows (mk rel8) = [requestRow, relBranchRow c]
  opcodeInstr_eq : opcodeInstr op = some (mk 0)
  opcode_ne_zero : op ≠ 0

theorem isRelJumpRow_of_mem : ∀ e ∈ relJumpTable, IsRelJumpRow e.1 e.2.1 e.2.2 := by
  simp only [relJumpTable, List.forall_mem_cons, List.not_mem_nil, false_implies, implies_true,
    and_true]
  refine ⟨?jmpr, ?jeqr, ?jgtr, ?jltr⟩
  all_goals exact ⟨fun _ => rfl, fun _ => rfl, fun _ => relJumpRows_eq _, rfl, by decide⟩

section
variable {op : Byte} {mk : Byte → Instr} {c : Cond} {s : State}

theorem IsRelJumpRow.tick_zero (h : IsRelJumpRow op mk c) (hs : InFlight s op 0) :
    s.tick = .next
      { s with opcode := op, state := 1, pc := s.pc + 1, bus := readOf s (s.pc + 1) } :=
  hs.tick_requestRow h.opcode_ne_zero h.opcodeInstr_eq (h.handlerRows_eq 0 ▸ rfl)

theorem IsRelJumpRow.tick_one (h : IsRelJumpRow op mk c) (hs : InFlight s op 1) :
    s.tick = .next { s with
      pc := c.relTarget s s.pc s.bus.data, state := 0, opcode := 0, fetch := true } := by
  have hop : s.opcode ≠ 0 := hs.opcode_ne_zero (by decide) h.opcode_ne_zero
  have hrow : (handlerRows (mk 0))[1]? = some (relBranchRow c) := by rw [h.handlerRows_eq]; rfl
  rw [hs.tick_eq h.opcode_ne_zero h.opcodeInstr_eq hrow, execTick_relBranchRow c _ hop]

theorem IsRelJumpRow.exec_eq (h : IsRelJumpRow op mk c) (rel8 : Byte) (hf : s.fetch = true) :
    exec (mk rel8) s = .next { s with
      pc := c.relTarget s (s.pc + 1) rel8, opcode := 0, state := 0
      bus := ⟨s.pc + 1, byte1 s, true⟩ } := by
  rw [exec_eq_run, h.encode_eq, h.handlerRows_eq, State.run_eq, fetchEdge_inCycle,
    State.runRows_cons, List.headD_cons, execEdge_requestRow h.opcode_ne_zero, State.runRows_cons,
    State.runRows_nil, List.tail_cons, List.headD_cons, execEdge_relBranchRow c _ h.opcode_ne_zero,
    hf]

end

/-! ### Absolute jumps -/

theorem isAddressRow_of_mem_absJumpTable :
    ∀ e ∈ absJumpTable, IsAddressRow e.1 e.2.1 [absBranchRow e.2.2] := by
  simp only [absJumpTable, List.forall_mem_cons, List.not_mem_nil, false_implies, implies_true,
    and_true]
  refine ⟨?jmp, ?jeq, ?jgt, ?jlt⟩
  all_goals exact ⟨fun _ => rfl, fun _ => absJumpRows_eq _, rfl, by decide⟩

section
variable {op : Byte} {mk : Word → Instr} {c : Cond} {s : State}

theorem tick_two_of_absJump (h : IsAddressRow op mk [absBranchRow c]) (hs : InFlight s op 2) :
    s.tick = .next { s with
      adr := joinBytes s.bus.data (loByte s.adr)
      pc := c.absTarget s s.pc (joinBytes s.bus.data (loByte s.adr))
      state := 0, opcode := 0, fetch := true } := by
  have hop : s.opcode ≠ 0 := hs.opcode_ne_zero (by decide) h.opcode_ne_zero
  rw [h.tick_eq hs rfl, execTick_absBranchRow c _ hop]

theorem exec_absJump (h : IsAddressRow op mk [absBranchRow c]) (abs16 : Word)
    (hf : s.fetch = true) :
    exec (mk abs16) s = .next { s with
      adr := abs16, pc := c.absTarget s (s.pc + 2) abs16, opcode := 0, state := 0
      bus := ⟨s.pc + 2, byte2 s, true⟩ } := by
  rw [h.exec_eq, State.runRows_cons, State.runRows_nil, List.headD_cons,
    execEdge_absBranchRow c abs16 h.opcode_ne_zero, hf]

end

/-! ### `CALL` -/

theorem isAddressRow_call : IsAddressRow 0xA8 .call [pushHighRow, pushLowRow] :=
  ⟨fun _ => rfl, fun _ => callRows_eq, rfl, by decide⟩

section
variable {s : State}

theorem tick_two_of_call (hs : InFlight s 0xA8 2) :
    s.tick = .next { s with adr := joinBytes s.bus.data (loByte s.adr), state := 3
                            stk := s.stk - 1, bus := ⟨s.stk, hiByte (s.pc + 1), false⟩ } := by
  have hop : s.opcode ≠ 0 := hs.opcode_ne_zero (by decide) (by decide)
  have htick := isAddressRow_call.tick_eq hs rfl
  obtain ⟨-, -, hstate, -⟩ := hs
  rw [htick, execTick_pushHighRow _ hop, hstate]
  rfl

theorem tick_three_of_call (hs : InFlight s 0xA8 3) :
    s.tick = .next { s with pc := s.adr, state := 0, opcode := 0, fetch := true
                            stk := s.stk - 1, bus := ⟨s.stk, loByte (s.pc + 1), false⟩ } := by
  have hop : s.opcode ≠ 0 := hs.opcode_ne_zero (by decide) (by decide)
  rw [isAddressRow_call.tick_eq hs rfl, execTick_pushLowRow _ hop]

/-- A whole `CALL` pushes the address after its three bytes. -/
theorem exec_call (abs16 : Word) (hf : s.fetch = true) :
    exec (.call abs16) s = .next (State.storeWord { s with
      adr := abs16, pc := abs16, stk := s.stk - 2, opcode := 0, state := 0
      bus := ⟨s.stk - 1, loByte (s.pc + 3), false⟩ } s.stk (s.pc + 3)) := by
  have pcNext : s.pc + 2 + 1 = s.pc + 3 := BitVec.add_assoc _ _ _
  have stkNext : s.stk - 1 - 1 = s.stk - 2 := by bv_omega
  rw [isAddressRow_call.exec_eq, State.runRows_cons, List.headD_cons,
    execEdge_pushHighRow abs16 (by decide), State.runRows_cons, State.runRows_nil,
    execEdge_pushLowRow _ _ _ (by decide), State.storeWord]
  simp only [pcNext, stkNext, hf]

/-! ### `RET` -/

theorem isByteRow_ret : IsByteRow 0xA9 .ret [popRequestRow, popLowRow, returnRow] :=
  ⟨rfl, retRows_eq, rfl, by decide⟩

theorem tick_zero_of_ret (hs : InFlight s 0xA9 0) :
    s.tick = .next { s with opcode := 0xA9, state := 1
                            stk := s.stk + 1, bus := readOf s (s.stk + 1) } := by
  have htick := isByteRow_ret.tick_eq hs rfl
  obtain ⟨-, -, hstate, hunset, hdata⟩ := hs
  rw [htick, hdata, execTick_popRequestRow (by decide) hunset, hstate]
  rfl

theorem tick_one_of_ret (hs : InFlight s 0xA9 1) :
    s.tick = .next { s with adr := joinBytes (hiByte s.adr) s.bus.data, state := 2
                            stk := s.stk + 1, bus := readOf s (s.stk + 1) } := by
  have hop : s.opcode ≠ 0 := hs.opcode_ne_zero (by decide) (by decide)
  have htick := isByteRow_ret.tick_eq hs rfl
  obtain ⟨-, -, hstate, -⟩ := hs
  rw [htick, execTick_popLowRow _ hop, hstate]
  rfl

theorem tick_two_of_ret (hs : InFlight s 0xA9 2) :
    s.tick = .next { s with adr := joinBytes s.bus.data (loByte s.adr)
                            pc := joinBytes s.bus.data (loByte s.adr)
                            state := 0, opcode := 0, fetch := true } := by
  have hop : s.opcode ≠ 0 := hs.opcode_ne_zero (by decide) (by decide)
  rw [isByteRow_ret.tick_eq hs rfl, execTick_returnRow _ hop]

theorem exec_ret {low high : Byte} (hf : s.fetch = true)
    (hlow : low = s.answer (s.stk + 1) (byte0 s)) (hhigh : high = s.answer (s.stk + 2) low) :
    exec .ret s = .next { s with
      adr := joinBytes high low, pc := joinBytes high low, stk := s.stk + 2
      opcode := 0, state := 0, bus := ⟨s.stk + 2, high, true⟩ } := by
  have hop : (0xA9 : Byte) ≠ 0 := by decide
  have answered : (s.lowPopped low).answer (s.stk + 2) high = high := by
    rw [hhigh]
    exact (State.answer_congr rfl _ _).trans (s.answer_answer _ _)
  have lowEdge := execEdge_popLowRow (s := s) low hop
  rw [← hhigh] at lowEdge
  rw [isByteRow_ret.exec_eq, State.runRows_cons, List.headD_cons, execEdge_popRequestRow hop,
    ← hlow, State.runRows_cons, List.tail_cons, List.headD_nil]
  refine congrArg _ ((congrArg _ lowEdge).trans ((execEdge_returnRow hop answered).trans ?_))
  simp only [State.lowPopped, loByte_joinBytes, hf]

/-- After a `CALL` from `s` that kept both bytes, `RET` from any state that has its stk and the two bytes
goes on after the `CALL` (45_jumps_and_calls.md rule R313). -/
theorem exec_ret_after_call {t u : State} {abs16 : Word} (hs : AtBoundary s)
    (hhi : s.writableAt s.stk = true) (hlo : s.writableAt (s.stk - 1) = true)
    (hcall : exec (.call abs16) s = .next t) (hu : AtBoundary u) (hstk : u.stk = t.stk)
    (huhi : u.memRead s.stk = t.memRead s.stk)
    (hulo : u.memRead (s.stk - 1) = t.memRead (s.stk - 1)) :
    ∃ v, exec .ret u = .next v ∧ v.pc = s.pc + 3 ∧ v.stk = s.stk := by
  obtain ⟨hf, -⟩ := hs
  obtain ⟨huf, -⟩ := hu
  rw [exec_call abs16 hf] at hcall
  cases hcall
  have hstk : u.stk = s.stk - 2 := hstk
  have above : u.stk + 1 = s.stk - 1 := by bv_omega
  have top : u.stk + 2 = s.stk := by bv_omega
  have stackedLo : u.memRead (s.stk - 1) = some (loByte (s.pc + 3)) :=
    (hulo.trans (State.memRead_storeWord_lo _ s.stk _)).trans (if_pos hlo)
  have stackedHi : u.memRead s.stk = some (hiByte (s.pc + 3)) :=
    (huhi.trans (State.memRead_storeWord_hi _ s.stk _)).trans (if_pos hhi)
  have low : loByte (s.pc + 3) = u.answer (u.stk + 1) (byte0 u) := by
    rw [above, State.answer_claimed _ stackedLo]
  have high : hiByte (s.pc + 3) = u.answer (u.stk + 2) (loByte (s.pc + 3)) := by
    rw [top, State.answer_claimed _ stackedHi]
  exact ⟨_, exec_ret huf low high, joinBytes_hiByte_loByte _, top⟩

end

end Sys2Proof.Claims

namespace Sys2Proof.Proofs

open Sys2Proof Sys2Proof.Machine Sys2Proof.Claims

/-- Settles O43: each row of the table is a relative jump; its target from the displacement byte is the
one `advance` leaves, in the tick and in the run, and no cycle of it writes to memory. -/
theorem relativeJumpAddsTheDisplacement : Obligations.RelativeJumpAddsTheDisplacement := by
  intro e he
  have hjump := isRelJumpRow_of_mem e he
  refine ⟨fun rel8 => ?row, fun s hs => ?cycle0,
    fun s hs => ⟨e.2.2.relTarget s s.pc s.bus.data, fun h => ?tickTaken, fun h => ?tickNotTaken,
      ?cycle1⟩,
    fun s rel8 ⟨hf, _⟩ => ⟨e.2.2.relTarget s (s.pc + 1) rel8, fun h => ?taken, fun h => ?notTaken,
      ?result, ?memory⟩⟩
  case row => exact ⟨hjump.encode_eq rel8, hjump.cycles_eq rel8⟩
  case cycle0 => exact hjump.tick_zero hs
  case cycle1 => exact hjump.tick_one hs
  case tickTaken => exact relTarget_of_condTrue h s.pc s.bus.data
  case tickNotTaken => exact relTarget_of_not_condTrue h s.pc s.bus.data
  case result => exact hjump.exec_eq rel8 hf
  case taken => exact (relTarget_of_condTrue h (s.pc + 1) rel8).trans (wrap_displacement s.pc _)
  case notTaken =>
    exact (relTarget_of_not_condTrue h (s.pc + 1) rel8).trans (wrap_next s.pc).symm
  case memory => exact State.memRead_congr rfl

/-- Settles O44: each row of the table builds its operand in `adr` and ends in the branch, whose target
is that operand or the next address; no cycle of it writes to memory. -/
theorem absoluteJumpLandsOnTheOperand : Obligations.AbsoluteJumpLandsOnTheOperand := by
  intro e he
  have hjump := isAddressRow_of_mem_absJumpTable e he
  refine ⟨fun abs16 => ?row, fun s hs => ?cycle0, fun s hs => ?cycle1,
    fun s hs => ⟨e.2.2.absTarget s s.pc (joinBytes s.bus.data (loByte s.adr)),
      fun h => ?tickTaken, fun h => ?tickNotTaken, ?cycle2⟩,
    fun s abs16 ⟨hf, _⟩ => ⟨e.2.2.absTarget s (s.pc + 2) abs16, fun h => ?taken, fun h => ?notTaken,
      ?result, ?memory⟩⟩
  case row => exact ⟨hjump.encode_eq abs16, hjump.cycles_eq abs16⟩
  case cycle0 => exact hjump.tick_zero hs
  case cycle1 => exact hjump.tick_one hs
  case cycle2 => exact tick_two_of_absJump hjump hs
  case tickTaken => exact absTarget_of_condTrue h s.pc _
  case tickNotTaken => exact absTarget_of_not_condTrue h s.pc _
  case result => exact exec_absJump hjump abs16 hf
  case taken => exact absTarget_of_condTrue h (s.pc + 2) abs16
  case notTaken =>
    exact (absTarget_of_not_condTrue h (s.pc + 2) abs16).trans (BitVec.add_assoc _ _ _)
  case memory => exact State.memRead_congr rfl

/-- Settles O45: the four ticks are the operand protocol into `adr` and the two pushes; the meaning is
their run, whose last two edges store the word `s.pc + 3` downwards from stk. -/
theorem callPushesTheReturnAddress : Obligations.CallPushesTheReturnAddress := by
  have hcall := isAddressRow_call
  refine ⟨fun abs16 => ?row, fun s hs => ?cycle0, fun s hs => ?cycle1, fun s hs => ?cycle2,
    fun s hs => ?cycle3,
    fun s abs16 ⟨hf, _⟩ => ⟨_, exec_call abs16 hf, ?registers, ?high, ?low, fun A hA hpred => ?others,
      ?platform⟩⟩
  case row => exact ⟨hcall.encode_eq abs16, hcall.cycles_eq abs16⟩
  case cycle0 => exact hcall.tick_zero hs
  case cycle1 => exact hcall.tick_one hs
  case cycle2 => exact tick_two_of_call hs
  case cycle3 => exact tick_three_of_call hs
  case registers => rfl
  case high => exact State.memRead_storeWord_hi _ s.stk (s.pc + 3)
  case low => exact State.memRead_storeWord_lo _ s.stk (s.pc + 3)
  case others => exact State.memRead_storeWord_other _ (s.pc + 3) hA hpred
  case platform => exact State.storeWord_cfgs _ s.stk (s.pc + 3)

/-- Settles O46: the three ticks are two pop requests and the jump, the meaning is their run, and the
bytes it pops after a `CALL` are the two that the `CALL` pushed. -/
theorem returnPopsTheAddress : Obligations.ReturnPopsTheAddress := by
  refine ⟨isByteRow_ret.encode_eq, isByteRow_ret.cycles_eq, fun s hs => ?cycle0, fun s hs => ?cycle1,
    fun s hs => ?cycle2, fun s low high ⟨hf, _⟩ hlow hhigh => ⟨?result, ?memory⟩,
    fun s t u abs16 hs hhi hlo hcall hu hstk huhi hulo => ?afterCall⟩
  case cycle0 => exact tick_zero_of_ret hs
  case cycle1 => exact tick_one_of_ret hs
  case cycle2 => exact tick_two_of_ret hs
  case result => exact exec_ret hf hlow hhigh
  case memory => exact State.memRead_congr rfl
  case afterCall => exact exec_ret_after_call hs hhi hlo hcall hu hstk huhi hulo

end Sys2Proof.Proofs
end

section
/-! PROOFS. `PUSH h` and `POP h`: the write at stk before its decrement, and the read at stk after its
increment (46_stack.md rules R330, R331, R340 and R341). -/

namespace Sys2Proof.Machine

/-! ### The rows of a push and of a pop -/

/-- The only cycle of `PUSH h`. -/
def pushRow (h : Half) : Row := fun _ s => (s.pushByte (s.getHalf h)).advance

theorem pushRows_eq (h : Half) : pushRows h = [pushRow h] := rfl

theorem popRows_eq (h : Half) : popRows h = [popRequestRow, receiveRow h] := rfl

/-! ### Halves and the fields around them -/

theorem State.getHalf_latchOpcode (s : State) (D : Byte) (h : Half) :
    (s.latchOpcode D).getHalf h = s.getHalf h :=
  congrArg (partOf h.part) (s.get_latchOpcode D h.reg)

theorem State.getHalf_inCycle_pc (s : State) (op n : Byte) (bus : Bus) (h : Half) :
    (s.inCycle op n s.pc bus).getHalf h = s.getHalf h :=
  congrArg (partOf h.part) (s.get_inCycle_pc op n bus h.reg)

/-- Writes to two registers do not see each other (10_state.md rule R31). -/
theorem State.setHalf_set_stk {h : Half} (hstk : h.reg ≠ .stk) (s : State) (w : Word) (v : Byte) :
    (s.set .stk w).setHalf h v = (s.setHalf h v).set .stk w := by
  obtain ⟨r, p⟩ := h
  cases r with
  | stk => exact absurd rfl hstk
  | pc | adr | a | b | x | y => rfl

end Sys2Proof.Machine

namespace Sys2Proof.Claims

open Sys2Proof Sys2Proof.Machine

/-! ### `PUSH h` -/

section
variable {op : Byte} {i : Instr} {h : Half} {s : State}

/-- The half is read after the latch of the opcode, which changes no register; `advance` unsets the
opcode, so nothing is counted. -/
theorem execTick_pushRow (D : Byte) :
    s.execTick D (pushRow h)
      = { s with stk := s.stk - 1, pc := s.pc + 1, fetch := true, state := 0, opcode := 0
                 bus := ⟨s.stk, s.getHalf h, false⟩ } := by
  unfold State.execTick pushRow
  rw [s.getHalf_latchOpcode, State.countCycle_unset rfl]
  simp [State.advance, State.pushByte, State.busWrite]

/-- The only exec edge of a push with the devices' tick: the write is on the bus for this one edge
(46_stack.md rule R331 case (4)). -/
theorem execEdge_pushRow (D : Byte) :
    (s.inCycle 0 0 s.pc ⟨s.pc, byte0 s, true⟩).execEdge D (pushRow h)
      = State.storeByte { s with
          stk := s.stk - 1, pc := s.pc + 1, fetch := true, state := 0, opcode := 0
          bus := ⟨s.stk, s.getHalf h, false⟩ } s.stk (s.getHalf h) := by
  rw [State.execEdge, execTick_pushRow, State.tickDevices_of_write rfl, s.getHalf_inCycle_pc]
  rfl

theorem isByteRow_of_mem_pushTable : ∀ e ∈ pushTable, IsByteRow e.1 e.2.1 [pushRow e.2.2] := by
  simp only [pushTable, List.forall_mem_cons, List.not_mem_nil, false_implies, implies_true, and_true]
  refine ⟨?al, ?ah, ?bl, ?bh, ?xl, ?xh, ?yl, ?yh⟩
  all_goals exact ⟨rfl, pushRows_eq _, rfl, by decide⟩

/-- Before cycle 0 the opcode and the count are unset, and `advance` leaves them so. -/
theorem tick_zero_of_push (hpush : IsByteRow op i [pushRow h]) (hs : InFlight s op 0) :
    s.tick = .next { s with stk := s.stk - 1, pc := s.pc + 1, fetch := true
                            bus := ⟨s.stk, s.getHalf h, false⟩ } := by
  have htick := hpush.tick_eq hs rfl
  obtain ⟨-, -, hstate, hunset, -⟩ := hs
  rw [htick, execTick_pushRow]
  simp only [hunset, hstate]

theorem exec_push (hpush : IsByteRow op i [pushRow h]) (hf : s.fetch = true) :
    exec i s = .next (State.storeByte { s with
      stk := s.stk - 1, pc := s.pc + 1, opcode := 0, state := 0
      bus := ⟨s.stk, s.getHalf h, false⟩ } s.stk (s.getHalf h)) := by
  rw [hpush.exec_single, execEdge_pushRow, hf]

end

/-! ### `POP h` -/

/-- A pop into the half `h` (46_stack.md rule R340), which is no half of `pc` or `stk` (decision D4). -/
structure IsPopRow (op : Byte) (i : Instr) (h : Half) : Prop where
  byteRow : IsByteRow op i [popRequestRow, receiveRow h]
  half_ne_pc : h.reg ≠ .pc
  half_ne_stk : h.reg ≠ .stk

theorem isPopRow_of_mem : ∀ e ∈ popTable, IsPopRow e.1 e.2.1 e.2.2 := by
  simp only [popTable, List.forall_mem_cons, List.not_mem_nil, false_implies, implies_true, and_true]
  refine ⟨?al, ?ah, ?bl, ?bh, ?xl, ?xh, ?yl, ?yh⟩
  all_goals exact ⟨⟨rfl, popRows_eq _, rfl, by decide⟩, by decide, by decide⟩

section
variable {op : Byte} {i : Instr} {h : Half} {s : State}

theorem IsPopRow.tick_zero (hpop : IsPopRow op i h) (hs : InFlight s op 0) :
    s.tick = .next { s with opcode := op, state := 1
                            stk := s.stk + 1, bus := readOf s (s.stk + 1) } := by
  have htick := hpop.byteRow.tick_eq hs rfl
  obtain ⟨-, -, hstate, hunset, hdata⟩ := hs
  rw [htick, hdata, execTick_popRequestRow hpop.byteRow.opcode_ne_zero hunset, hstate]
  rfl

theorem IsPopRow.tick_one (hpop : IsPopRow op i h) (hs : InFlight s op 1) :
    s.tick = .next { s.setHalf h s.bus.data with
      state := 0, opcode := 0, fetch := true, pc := s.pc + 1 } := by
  have hop : s.opcode ≠ 0 := hs.opcode_ne_zero (by decide) hpop.byteRow.opcode_ne_zero
  rw [hpop.byteRow.tick_eq hs rfl, execTick_receiveRow _ hop hpop.half_ne_pc]

/-- stk has moved when the half is written, and neither write sees the other. -/
theorem IsPopRow.exec_eq (hpop : IsPopRow op i h) (hf : s.fetch = true) :
    exec i s = .next { s.setHalf h (s.answer (s.stk + 1) (byte0 s)) with
      stk := s.stk + 1, pc := s.pc + 1, opcode := 0, state := 0
      bus := ⟨s.stk + 1, s.answer (s.stk + 1) (byte0 s), true⟩ } := by
  have hop := hpop.byteRow.opcode_ne_zero
  have fetching : (s.setHalf h (s.answer (s.stk + 1) (byte0 s))).fetch = true :=
    (s.setHalf_fetch h _).trans hf
  have lastEdge := execEdge_receiveRow (s := s.set .stk (s.stk + 1)) (n := 1) (pc := s.pc)
    (A := s.stk + 1) (byte0 s) hop hpop.half_ne_pc
  rw [State.answer_congr (s.set_devices .stk _), State.setHalf_set_stk hpop.half_ne_stk] at lastEdge
  rw [hpop.byteRow.exec_eq, State.runRows_cons, List.headD_cons, execEdge_popRequestRow hop,
    State.runRows_cons, State.runRows_nil, List.tail_cons, List.headD_nil]
  refine congrArg _ (lastEdge.trans ?_)
  simp only [State.set, fetching]

end

end Sys2Proof.Claims

namespace Sys2Proof.Proofs

open Sys2Proof Sys2Proof.Machine Sys2Proof.Claims

/-- Settles O47: each row of the table is a push; its one tick ends in the write, and its meaning is that
edge, which stores the one byte where stk stood. -/
theorem pushStoresAtTheStackPointer : Obligations.PushStoresAtTheStackPointer := by
  intro e he
  have hpush := isByteRow_of_mem_pushTable e he
  refine ⟨hpush.encode_eq, hpush.cycles_eq, fun s hs => ?cycle0,
    fun s ⟨hf, _⟩ => ⟨_, exec_push hpush hf, ?registers, ?memory⟩⟩
  case cycle0 => exact tick_zero_of_push hpush hs
  case registers => rfl
  case memory => exact storesOnly_storeByte rfl s.stk (s.getHalf e.2.2)

/-- Settles O48: each row of the table is a pop; its two ticks are the request above stk and the receipt
of the byte, its meaning is their run, and no cycle of it writes to memory. -/
theorem popReadsAboveTheStackPointer : Obligations.PopReadsAboveTheStackPointer := by
  intro e he
  have hpop := isPopRow_of_mem e he
  refine ⟨hpop.byteRow.encode_eq, hpop.byteRow.cycles_eq, fun s hs => ?cycle0, fun s hs => ?cycle1,
    fun s ⟨hf, _⟩ => ⟨?result, ?memory⟩⟩
  case cycle0 => exact hpop.tick_zero hs
  case cycle1 => exact hpop.tick_one hs
  case result => exact hpop.exec_eq hf
  case memory => exact State.memRead_congr (s.setHalf_devices e.2.2 _)

end Sys2Proof.Proofs
end

section
/-! PROOFS. The transfers `T s d`: one exec cycle that writes a whole register to another and ends the
instruction (47_transfer.md rule R360). -/

namespace Sys2Proof.Claims

open Sys2Proof Sys2Proof.Machine

/-- The value of a transfer: all 16 bits of its source. -/
def sourceValue (src : Reg) (s : State) : Word := s.get src

theorem sourceValue_readsRegisters (src : Reg) : ReadsRegisters (sourceValue src) :=
  fun _ _ sameRegisters => sameRegisters src

theorem transferRows_eq (src dst : Reg) :
    transferRows src dst = [writeRow dst (sourceValue src)] := rfl

/-- No transfer writes to `pc` (decision D11), so `advance` counts from the old one. -/
theorem isWriteRow_of_mem_transferTable :
    ∀ e ∈ transferTable, IsWriteRow e.1 e.2.1 e.2.2.2 (sourceValue e.2.2.1) := by
  simp only [transferTable, List.forall_mem_cons, List.not_mem_nil, false_implies, implies_true,
    and_true]
  refine ⟨?tab, ?tax, ?tay, ?tba, ?tbx, ?tby, ?txa, ?txb, ?txy, ?tya, ?tyb, ?tyx⟩
  all_goals exact ⟨⟨rfl, transferRows_eq _ _, rfl, by decide⟩, by decide, sourceValue_readsRegisters _⟩

end Sys2Proof.Claims

namespace Sys2Proof.Proofs

open Sys2Proof Sys2Proof.Machine Sys2Proof.Claims

/-- Settles O49: each row of the table writes to its destination the value of its source, and its only
cycle writes nothing to memory. -/
theorem transferCopiesTheRegister : Obligations.TransferCopiesTheRegister := by
  intro e he
  have htransfer := isWriteRow_of_mem_transferTable e he
  refine ⟨htransfer.byteRow.encode_eq, htransfer.byteRow.cycles_eq, fun s hs => ?cycle0,
    fun s ⟨hf, _⟩ => ⟨?result, ?memory⟩⟩
  case cycle0 => exact htransfer.tick_zero hs
  case result => exact htransfer.exec_eq hf
  case memory => exact State.memRead_congr (s.set_devices e.2.2.2 (s.get e.2.2.1))

end Sys2Proof.Proofs
end

section
/-! PROOFS. The decoder and the encoder undo each other (30_encoding.md rules R121, R124, R127 and
R128). -/

namespace Sys2Proof

/-! ### The three formats in the decoder -/

section
variable {op : Byte}

theorem decode_f0 {i : Instr} (hrow : lookupForm opcodeMap op = some (.f0 i)) (rest : List Byte) :
    decode (op :: rest) = .ok (i, rest) := by
  simp [decode, hrow]

theorem decode_f1 {mk : Byte → Instr} (hrow : lookupForm opcodeMap op = some (.f1 mk)) (rel8 : Byte)
    (rest : List Byte) : decode (op :: rel8 :: rest) = .ok (mk rel8, rest) := by
  simp [decode, hrow]

theorem decode_f2 {mk : Word → Instr} (hrow : lookupForm opcodeMap op = some (.f2 mk)) (w : Word)
    (rest : List Byte) : decode (op :: loByte w :: hiByte w :: rest) = .ok (mk w, rest) := by
  simp [decode, hrow]

end

/-! ### The rows of the opcode map in the encoder -/

/-- The encoder writes the row's opcode byte and the operand bytes of its format (30_encoding.md rules
R121 and R124). -/
def Form.EncodesAs (op : Byte) : Form → Prop
  | .f0 i => encode i = [op]
  | .f1 mk => ∀ rel8, encode (mk rel8) = [op, rel8]
  | .f2 mk => ∀ w, encode (mk w) = [op, loByte w, hiByte w]

/-- The map of rule R127 and the list of rule R128 agree. -/
theorem encodesAs_of_mem_opcodeMap : ∀ row ∈ opcodeMap, row.2.EncodesAs row.1 := by
  simp only [opcodeMap, mapRow0, mapRow1, mapRow2, mapRow3, mapRow4, mapRow5, mapRow6, mapRow7,
    mapRow8, mapRow9, mapRowA, mapRowB, mapRowC, mapRowD, mapRowE, List.forall_mem_append,
    List.forall_mem_cons, List.not_mem_nil, false_implies, implies_true, and_true, Form.EncodesAs]
  and_intros
  all_goals intros; rfl

theorem mem_of_lookupForm {m : List (Byte × Form)} {op : Byte} {form : Form}
    (h : lookupForm m op = some form) : (op, form) ∈ m := by
  induction m with
  | nil => simp [lookupForm] at h
  | cons row m ih =>
    obtain ⟨k, f⟩ := row
    by_cases hk : k = op
    · simp only [lookupForm, hk, if_true, Option.some.injEq] at h
      simp [hk, h]
    · simp only [lookupForm, hk, if_false] at h
      exact List.mem_cons_of_mem _ (ih h)

theorem encodesAs_of_lookupForm {op : Byte} {form : Form}
    (h : lookupForm opcodeMap op = some form) : form.EncodesAs op :=
  encodesAs_of_mem_opcodeMap _ (mem_of_lookupForm h)

/-! ### Whole instructions -/

theorem decode_encode_append (i : Instr) (rest : List Byte) :
    decode (encode i ++ rest) = .ok (i, rest) := by
  cases i with
  | setstk w | seta w | setb w | setx w | sety w
  | ldal w | ldah w | ldbl w | ldbh w | ldxl w | ldxh w | ldyl w | ldyh w
  | stal w | stah w | stbl w | stbh w | stxl w | stxh w | styl w | styh w
  | jmp w | jeq w | jgt w | jlt w | call w => exact decode_f2 rfl w rest
  | jmpr rel8 | jeqr rel8 | jgtr rel8 | jltr rel8 => exact decode_f1 rfl rel8 rest
  | _ => exact decode_f0 rfl rest

theorem encode_append_of_decode {bytes rest : List Byte} {i : Instr}
    (h : decode bytes = .ok (i, rest)) : encode i ++ rest = bytes := by
  match bytes with
  | [] => simp [decode] at h
  | op :: operand =>
    cases hform : lookupForm opcodeMap op with
    | none => simp [decode, hform] at h
    | some form =>
      have henc := encodesAs_of_lookupForm hform
      match form, operand with
      | .f0 _, _ =>
        rw [decode_f0 hform] at h
        cases h
        rw [show encode i = [op] from henc, List.singleton_append]
      | .f1 _, [] | .f2 _, [] | .f2 _, [_] => simp [decode, hform] at h
      | .f1 mk, rel8 :: _ =>
        rw [decode_f1 hform] at h
        cases h
        rw [show encode (mk rel8) = [op, rel8] from henc rel8]
        rfl
      | .f2 mk, l :: u :: _ =>
        have hbytes := henc (joinBytes u l)
        have hread := decode_f2 hform (joinBytes u l)
        rw [loByte_joinBytes, hiByte_joinBytes] at hbytes hread
        rw [hread] at h
        cases h
        rw [hbytes]
        rfl

/-- Three bytes are enough for every instruction, so the decoder rejects them for their opcode alone
(30_encoding.md rule R122). -/
theorem lookupForm_of_decode_error {op v w : Byte} {e : DecodeError}
    (h : decode [op, v, w] = .error e) : lookupForm opcodeMap op = none := by
  cases hform : lookupForm opcodeMap op with
  | none => rfl
  | some form =>
    match form with
    | .f0 _ | .f1 _ | .f2 _ => simp [decode, hform] at h

end Sys2Proof

namespace Sys2Proof.Proofs

open Sys2Proof

/-- Settles O2: each instruction is a row of the opcode map, read by its format. -/
theorem decodeInvertsEncode : Obligations.DecodeInvertsEncode :=
  decode_encode_append

/-- Settles O3: the row that the decoder selects is written by the encoder with the same bytes. -/
theorem encodeInvertsDecode : Obligations.EncodeInvertsDecode :=
  fun _ _ _ => encode_append_of_decode

end Sys2Proof.Proofs
end

section
/-! PROOFS. An instruction is its edges, and an instruction in flight is carried to its boundary
(40_controller.md rules R171 to R183, 70_reset_and_hazards.md rule R460). -/

namespace Sys2Proof.Machine

/-! ### The opcode byte selects the rows -/

theorem opcodeInstr_zero : opcodeInstr 0 = none := rfl

theorem ne_zero_of_opcodeInstr {op : Byte} {i : Instr} (h : opcodeInstr op = some i) : op ≠ 0 := by
  rintro rfl
  rw [opcodeInstr_zero] at h
  cases h

/-- The instruction of the opcode byte alone has the tick table of the instruction with its operand. -/
theorem exists_opcodeInstr_of_encode (i : Instr) :
    ∃ op operand j, encode i = op :: operand ∧ opcodeInstr op = some j ∧
      handlerRows j = handlerRows i := by
  cases i
  all_goals exact ⟨_, _, _, rfl, rfl, rfl⟩

theorem exists_opcodeInstr_of_decode {op : Byte} {bytes rest : List Byte} {i : Instr}
    (h : decode (op :: bytes) = .ok (i, rest)) :
    ∃ j, opcodeInstr op = some j ∧ handlerRows j = handlerRows i := by
  obtain ⟨op', operand, j, henc, hj, hrows⟩ := exists_opcodeInstr_of_encode i
  have hbytes := encode_append_of_decode h
  rw [henc, List.cons_append, List.cons.injEq] at hbytes
  obtain ⟨rfl, -⟩ := hbytes
  exact ⟨j, hj, hrows⟩

/-! ### What a row does to the course of its instruction -/

/-- A row after which the instruction is still in flight: it leaves the control state, the log and the
stores alone. -/
def GoesOn (row : Row) : Prop :=
  ∀ D s, (row D s).opcode = s.opcode ∧ (row D s).state = s.state ∧ (row D s).fetch = s.fetch ∧
    (row D s).halt = s.halt ∧ (row D s).log = s.log ∧ (row D s).devices = s.devices

/-- A row that requests the next byte of the instruction (40_controller.md rule R180). -/
def RequestsOperand (row : Row) : Prop :=
  ∀ D s, (row D s).pc = s.pc + 1 ∧ (row D s).bus = ⟨s.pc + 1, s.bus.data, true⟩

/-- A row after which the core is at a boundary or halted. -/
def Ends (row : Row) : Prop := ∀ D s, (row D s).fetch = true ∨ (row D s).halt = true

/-- The rows of an instruction beside the bytes that its cycles sample, from one cycle on: a row requests
the byte that the cycle after it samples, and only the last row ends the instruction. -/
inductive Course : List Byte → List Row → Prop
  | last {bytes : List Byte} {row : Row} : bytes.tail = [] → Ends row → Course bytes [row]
  | goesOn {bytes : List Byte} {row : Row} {rows : List Row} :
      bytes.tail = [] → GoesOn row → Course [] rows → Course bytes (row :: rows)
  | operand {v w : Byte} {bytes : List Byte} {row : Row} {rows : List Row} :
      GoesOn row → RequestsOperand row → Course (w :: bytes) rows →
      Course (v :: w :: bytes) (row :: rows)

theorem Course.ne_nil {bytes : List Byte} {rows : List Row} (h : Course bytes rows) : rows ≠ [] := by
  cases h
  all_goals exact List.cons_ne_nil _ _

/-! ### The rows of the tick tables -/

theorem goesOn_requestRow : GoesOn requestRow := fun _ _ => ⟨rfl, rfl, rfl, rfl, rfl, rfl⟩

theorem goesOn_latchLowRow (r : Reg) : GoesOn (latchLowRow r) := by
  intro D s
  simp [latchLowRow]

theorem goesOn_requestDataRow : GoesOn requestDataRow := fun _ _ => ⟨rfl, rfl, rfl, rfl, rfl, rfl⟩

theorem goesOn_requestAtRow (p : Reg) : GoesOn (requestAtRow p) :=
  fun _ _ => ⟨rfl, rfl, rfl, rfl, rfl, rfl⟩

theorem goesOn_pushHighRow : GoesOn pushHighRow := fun _ _ => ⟨rfl, rfl, rfl, rfl, rfl, rfl⟩

theorem goesOn_popRequestRow : GoesOn popRequestRow := fun _ _ => ⟨rfl, rfl, rfl, rfl, rfl, rfl⟩

theorem goesOn_popLowRow : GoesOn popLowRow := fun _ _ => ⟨rfl, rfl, rfl, rfl, rfl, rfl⟩

theorem requestsOperand_requestRow : RequestsOperand requestRow := fun _ _ => ⟨rfl, rfl⟩

theorem requestsOperand_latchLowRow {r : Reg} (hr : r ≠ .pc) : RequestsOperand (latchLowRow r) := by
  intro D s
  simp [latchLowRow, State.setHalf_pc_of_ne hr]

/-- `advance` leads to the boundary, whatever the row did before it. -/
theorem ends_of_advance (action : Row) : Ends (fun D s => (action D s).advance) :=
  fun _ _ => .inl rfl

theorem ends_absBranchRow (c : Cond) : Ends (absBranchRow c) := by
  intro D s
  simp only [absBranchRow, latchHighRow]
  split
  · exact .inl rfl
  · exact .inl rfl

theorem ends_divRow : Ends divRow := by
  intro D s
  rw [divRow]
  split
  · exact .inr rfl
  · exact .inl rfl

theorem ends_illegalRow : Ends illegalRow := fun _ _ => .inr rfl

/-! ### The tick tables -/

theorem course_single {op : Byte} {row : Row} (h : Ends row) : Course [op] [row] := .last rfl h

theorem course_double {op : Byte} {row last : Row} (hrow : GoesOn row) (h : Ends last) :
    Course [op] [row, last] := .goesOn rfl hrow (.last rfl h)

/-- The operand protocol, and what the family does after it (40_controller.md rule R181). -/
theorem course_operand {op l h : Byte} {r : Reg} {rows : List Row} (hr : r ≠ .pc)
    (hrows : Course [h] rows) : Course [op, l, h] (requestRow :: latchLowRow r :: rows) :=
  .operand goesOn_requestRow requestsOperand_requestRow
    (.operand (goesOn_latchLowRow r) (requestsOperand_latchLowRow hr) hrows)

section
variable {op l h : Byte}

theorem course_setRows {r : Reg} (hr : r ≠ .pc) : Course [op, l, h] (setRows r) :=
  course_operand hr (course_single fun _ _ => .inl rfl)

theorem course_loadRows (half : Half) : Course [op, l, h] (loadRows half) :=
  course_operand (by decide) (course_double goesOn_requestDataRow (ends_of_advance _))

theorem course_storeRows (half : Half) : Course [op, l, h] (storeRows half) :=
  course_operand (by decide) (course_single (ends_of_advance _))

theorem course_absJumpRows (c : Cond) : Course [op, l, h] (absJumpRows c) :=
  course_operand (by decide) (course_single (ends_absBranchRow c))

theorem course_callRows : Course [op, l, h] callRows :=
  course_operand (by decide) (course_double goesOn_pushHighRow (ends_of_advance _))

theorem course_relJumpRows (c : Cond) : Course [op, l] (relJumpRows c) :=
  .operand goesOn_requestRow requestsOperand_requestRow (course_single (ends_of_advance _))

theorem course_indirectRows (p : Reg) (half : Half) : Course [op] (indirectRows p half) :=
  course_double (goesOn_requestAtRow p) (ends_of_advance _)

theorem course_popRows (half : Half) : Course [op] (popRows half) :=
  course_double goesOn_popRequestRow (ends_of_advance _)

theorem course_retRows : Course [op] retRows :=
  .goesOn rfl goesOn_popRequestRow (.goesOn rfl goesOn_popLowRow (.last rfl (ends_of_advance _)))

end

/-- Every tick table is a course over its instruction's own bytes. -/
theorem course_handlerRows (i : Instr) : Course (encode i) (handlerRows i) := by
  cases i with
  | halt => exact course_single fun _ _ => .inr rfl
  | setstk | seta | setb | setx | sety => exact course_setRows (by decide)
  | ldal | ldah | ldbl | ldbh | ldxl | ldxh | ldyl | ldyh => exact course_loadRows _
  | stal | stah | stbl | stbh | stxl | stxh | styl | styh => exact course_storeRows _
  | lxal | lxah | lxbl | lxbh | lxxl | lxxh | lxyl | lxyh
  | lyal | lyah | lybl | lybh | lyxl | lyxh | lyyl | lyyh => exact course_indirectRows _ _
  | popal | popah | popbl | popbh | popxl | popxh | popyl | popyh => exact course_popRows _
  | div => exact course_single ends_divRow
  | jmpr | jeqr | jgtr | jltr => exact course_relJumpRows _
  | jmp | jeq | jgt | jlt => exact course_absJumpRows _
  | call => exact course_callRows
  | ret => exact course_retRows
  | pushal | pushah | pushbl | pushbh | pushxl | pushxh | pushyl | pushyh
  | add | sub | mul | incx | decx | incy | decy
  | tab | tax | tay | tba | tbx | tby | txa | txb | txy | tya | tyb | tyx =>
    exact course_single (ends_of_advance _)

/-! ### Edges and the platform -/

theorem State.edges_succ_of_edge {s t : State} (n : Nat) (h : s.edge = .next t) :
    State.edges (n + 1) s = State.edges n t := by
  rw [State.edges_succ, h]

/-- Several edges, taken apart at the first. -/
theorem State.exists_edge_of_edges_succ {n : Nat} {s v : State} (h : State.edges (n + 1) s = .next v) :
    ∃ t, s.edge = .next t ∧ State.edges n t = .next v := by
  rw [State.edges_succ] at h
  split at h
  · next t ht => exact ⟨t, ht, h⟩
  · cases h
  · cases h

theorem State.edges_cfgs {n : Nat} {s t : State} (h : State.edges n s = .next t) :
    t.devices.map (fun d => d.cfg) = s.devices.map (fun d => d.cfg) := by
  induction n generalizing s with
  | zero => cases h; rfl
  | succ n ih =>
    obtain ⟨u, hu, hrest⟩ := State.exists_edge_of_edges_succ h
    exact (ih hrest).trans (State.edge_cfgs hu)

theorem State.platformOk_congr {s t : State}
    (h : t.devices.map (fun d => d.cfg) = s.devices.map (fun d => d.cfg)) :
    t.platformOk = s.platformOk := by
  rw [State.platformOk, h, State.platformOk]

/-! ### Edges to the end of an instruction -/

/-- From `s`, which is in flight unless the count is 0, that many edges lead to the boundary or the halt
`v`, and the instruction is in flight before each of them. -/
inductive EndsAfter : Nat → State → State → Prop
  | done {v : State} : v.fetch = true ∨ v.halt = true → EndsAfter 0 v v
  | edge {m : Nat} {s t v : State} : s.fetch = false → s.halt = false → s.edge = .next t →
      EndsAfter m t v → EndsAfter (m + 1) s v

namespace EndsAfter

variable {m : Nat} {s v : State}

theorem ended (h : EndsAfter m s v) : v.fetch = true ∨ v.halt = true := by
  induction h with
  | done hv => exact hv
  | edge _ _ _ _ ih => exact ih

theorem edges_eq (h : EndsAfter m s v) : State.edges m s = .next v := by
  induction h with
  | done _ => rfl
  | edge _ _ he _ ih => rw [State.edges_succ_of_edge _ he, ih]

/-- The rest of the way after some of the edges. -/
theorem after_edges (h : EndsAfter m s v) {k : Nat} {t : State} (hk : k ≤ m)
    (ht : State.edges k s = .next t) : EndsAfter (m - k) t v := by
  induction h generalizing k with
  | done hv =>
    obtain rfl : k = 0 := Nat.le_zero.1 hk
    cases ht
    exact .done hv
  | @edge m s u v hf hh he hrest ih =>
    cases k with
    | zero =>
      cases ht
      exact .edge hf hh he hrest
    | succ k =>
      rw [State.edges_succ_of_edge _ he] at ht
      rw [Nat.add_sub_add_right]
      exact ih (Nat.le_of_succ_le_succ hk) ht

theorem inFlight (h : EndsAfter (m + 1) s v) : s.fetch = false ∧ s.halt = false := by
  cases h with
  | edge hf hh _ _ => exact ⟨hf, hh⟩

theorem inFlight_of_edges (h : EndsAfter m s v) {k : Nat} {t : State} (hk : k < m)
    (ht : State.edges k s = .next t) : t.fetch = false ∧ t.halt = false := by
  obtain ⟨d, rfl⟩ := Nat.exists_eq_add_of_lt hk
  have hrest := h.after_edges (Nat.le_of_lt hk) ht
  rw [Nat.add_assoc, Nat.add_sub_cancel_left] at hrest
  exact hrest.inFlight

/-- Carrying an instruction to its boundary stops there (40_controller.md rule R183; log 10). -/
theorem finish_eq (h : EndsAfter m s v) {fuel : Nat} (hm : m ≤ fuel) :
    s.finish fuel = .next v := by
  induction h generalizing fuel with
  | done hv =>
    cases fuel with
    | zero => rfl
    | succ fuel =>
      rw [State.finish, if_pos]
      simpa using hv
  | edge hf hh he _ ih =>
    cases fuel with
    | zero => cases hm
    | succ fuel =>
      rw [State.finish, if_neg (by simp [hf, hh])]
      simp only [he]
      exact ih (Nat.le_of_succ_le_succ hm)

end EndsAfter

/-! ### The bytes that the cycles sample -/

/-- Reads at `A` and the addresses after it are answered with `bytes`, where the data latch held `D`
before the first (20_memory.md rule R85). -/
def State.Answers (s : State) : Word → Byte → List Byte → Prop
  | _, _, [] => True
  | A, D, v :: bytes => s.answer A D = v ∧ State.Answers s (A + 1) v bytes

/-- The first of `bytes` is on the bus, and the reads after pc are answered with the others. -/
def State.Supplies (s : State) : List Byte → Prop
  | [] => True
  | v :: bytes => s.bus.data = v ∧ s.Answers (s.pc + 1) v bytes

theorem State.Answers.congr {s t : State} (h : t.devices = s.devices) {A : Word} {D : Byte}
    {bytes : List Byte} (hs : s.Answers A D bytes) : t.Answers A D bytes := by
  induction bytes generalizing A D with
  | nil => trivial
  | cons v bytes ih =>
    obtain ⟨hv, hrest⟩ := hs
    exact ⟨(State.answer_congr h A D).trans hv, ih hrest⟩

theorem State.Answers.of_append {s : State} {A : Word} {D : Byte} {bytes rest : List Byte}
    (hs : s.Answers A D (bytes ++ rest)) : s.Answers A D bytes := by
  induction bytes generalizing A D with
  | nil => trivial
  | cons v bytes ih =>
    obtain ⟨hv, hrest⟩ := hs
    exact ⟨hv, ih hrest⟩

theorem State.Supplies.of_append {s : State} {bytes rest : List Byte}
    (hs : s.Supplies (bytes ++ rest)) : s.Supplies bytes := by
  cases bytes with
  | nil => trivial
  | cons v bytes => exact ⟨hs.1, hs.2.of_append⟩

theorem State.Supplies.headD_eq {s : State} {bytes : List Byte} (hs : s.Supplies bytes) :
    bytes.headD s.bus.data = s.bus.data := by
  cases bytes with
  | nil => rfl
  | cons v bytes => exact hs.1.symm

end Sys2Proof.Machine

namespace Sys2Proof.Claims

open Sys2Proof Sys2Proof.Machine

/-! ### One edge of a core in flight -/

section
variable {s : State} {op n : Byte} {row : Row}

/-- The control state before the row: the opcode is latched, the rest stands as it was. -/
theorem InFlight.edge_eq {i : Instr} (hs : InFlight s op n) (hi : opcodeInstr op = some i)
    (hrow : (handlerRows i)[n.toNat]? = some row) :
    s.edge = .next (s.execEdge s.bus.data row) :=
  State.edge_of_tick (hs.tick_eq (ne_zero_of_opcodeInstr hi) hi hrow)

theorem InFlight.endsAfter_succ {i : Instr} {m : Nat} {v : State} (hs : InFlight s op n)
    (hi : opcodeInstr op = some i) (hrow : (handlerRows i)[n.toNat]? = some row)
    (hrest : EndsAfter m (s.execEdge s.bus.data row) v) : EndsAfter (m + 1) s v := by
  have ⟨hf, hh, _⟩ := hs
  exact .edge hf hh (hs.edge_eq hi hrow) hrest

/-- A row that goes on leads to the next exec cycle of the same opcode. -/
theorem InFlight.execEdge_goesOn (hs : InFlight s op n) (hop : op ≠ 0) (hrow : GoesOn row)
    (hn : n + 1 ≠ 0) : InFlight (s.execEdge s.bus.data row) op (n + 1) := by
  have hlatched := hs.latched hop
  obtain ⟨hf, hh, hstate, -⟩ := hs
  obtain ⟨hopcode, hst, hfetch, hhalt, -, -⟩ := hrow s.bus.data (s.latchOpcode s.bus.data)
  have counted : (s.execTick s.bus.data row).state = n + 1 := by
    rw [State.execTick, State.countCycle_set (by rw [hopcode, hlatched]; exact hop), hst,
      State.latchOpcode_state, hstate]
  refine ⟨?fetch, ?halt, counted, ?opcode⟩
  case fetch => simp [State.execEdge, State.execTick, hfetch, hf]
  case halt => simp [State.execEdge, State.execTick, hhalt, hh]
  case opcode =>
    rw [if_neg hn]
    simp [State.execEdge, State.execTick, hopcode, hlatched]

/-- A row that requests the next byte has it on the bus after its edge, and the bytes after that one
still follow pc. -/
theorem supplies_execEdge {v w : Byte} {bytes : List Byte} (hs : s.Supplies (v :: w :: bytes))
    (hgo : GoesOn row) (hrow : RequestsOperand row) :
    (s.execEdge s.bus.data row).Supplies (w :: bytes) := by
  obtain ⟨rfl, hw, hrest⟩ := hs
  obtain ⟨-, -, -, -, -, hdevices⟩ := hgo s.bus.data (s.latchOpcode s.bus.data)
  obtain ⟨hpc, hbus⟩ := hrow s.bus.data (s.latchOpcode s.bus.data)
  have pcNext : (s.execTick s.bus.data row).pc = s.pc + 1 := by
    simp [State.execTick, hpc]
  have busNext : (s.execTick s.bus.data row).bus = ⟨s.pc + 1, s.bus.data, true⟩ := by
    simp [State.execTick, hbus]
  have sameDevices : (s.execTick s.bus.data row).devices = s.devices := by
    simp [State.execTick, hdevices]
  rw [State.execEdge, State.tickDevices_of_read (by rw [busNext]), busNext]
  refine ⟨(State.answer_congr sameDevices _ _).trans hw, ?_⟩
  simp only [pcNext]
  refine State.Answers.congr (s := s) ?_ hrest
  exact sameDevices

theorem ended_execEdge (hrow : Ends row) (D : Byte) :
    (s.execEdge D row).fetch = true ∨ (s.execEdge D row).halt = true := by
  simpa [State.execEdge, State.execTick] using hrow D (s.latchOpcode D)

end

/-! ### All the edges of a core in flight -/

/-- The row of the present cycle and the rows left after it, where there are any. -/
theorem next_row {i : Instr} {n : Byte} {row : Row} {rows : List Row}
    (hrows : (handlerRows i).drop n.toNat = row :: rows) (hne : rows ≠ []) :
    (handlerRows i)[n.toNat]? = some row ∧ (handlerRows i).drop (n + 1).toNat = rows ∧ n + 1 ≠ 0 := by
  have hlength := congrArg List.length hrows
  have hfour : (handlerRows i).length ≤ 4 := handlerRows_length i ▸ execCycles_le i
  have hpos := List.length_pos_iff.2 hne
  rw [List.length_drop, List.length_cons] at hlength
  have hnext : (n + 1).toNat = n.toNat + 1 := by bv_omega
  refine ⟨by rw [← List.head?_drop, hrows, List.head?_cons], ?_, fun h => ?_⟩
  · rw [hnext, ← List.tail_drop, hrows, List.tail_cons]
  · rw [h] at hnext
    cases hnext

/-- The edges of a core in flight run the rows that its instruction has left: each edge samples the byte
that the run is given for it. -/
theorem endsAfter_of_course {i : Instr} {op : Byte} (hi : opcodeInstr op = some i)
    {bytes : List Byte} {rows : List Row} (hcourse : Course bytes rows) {s : State} {n : Byte}
    (hs : InFlight s op n) (hrows : (handlerRows i).drop n.toNat = rows) (hbytes : s.Supplies bytes) :
    EndsAfter rows.length s (State.runRows bytes rows s) := by
  have hop := ne_zero_of_opcodeInstr hi
  induction hcourse generalizing s n with
  | @last bytes row htail hrow =>
    have hget : (handlerRows i)[n.toNat]? = some row := by
      rw [← List.head?_drop, hrows, List.head?_cons]
    rw [State.runRows_cons, State.runRows_nil, hbytes.headD_eq]
    exact hs.endsAfter_succ hi hget (.done (ended_execEdge hrow _))
  | @goesOn bytes row rows htail hrow hrest ih =>
    obtain ⟨hget, hdrop, hn⟩ := next_row hrows hrest.ne_nil
    rw [State.runRows_cons, hbytes.headD_eq, htail]
    exact hs.endsAfter_succ hi hget (ih (hs.execEdge_goesOn hop hrow hn) hdrop trivial)
  | @operand v w bytes row rows hrow hrequest hrest ih =>
    obtain ⟨hget, hdrop, hn⟩ := next_row hrows hrest.ne_nil
    rw [State.runRows_cons, hbytes.headD_eq, List.tail_cons]
    exact hs.endsAfter_succ hi hget
      (ih (hs.execEdge_goesOn hop hrow hn) hdrop (supplies_execEdge hbytes hrow hrequest))

/-! ### From the boundary -/

section
variable {s : State}

theorem AtBoundary.edge_eq (hs : AtBoundary s) : s.edge = .next s.fetchEdge :=
  State.edge_of_tick (State.tick_of_fetch hs.2 hs.1)

/-- The fetch edge leaves the core about to run cycle 0 of the opcode at pc. -/
theorem AtBoundary.inFlight_fetchEdge (hs : AtBoundary s) : InFlight s.fetchEdge (byte0 s) 0 := by
  rw [State.fetchEdge_eq]
  exact ⟨rfl, hs.2, rfl, rfl, rfl⟩

theorem supplies_fetchEdge (s : State) : s.fetchEdge.Supplies [byte0 s, byte1 s, byte2 s] := by
  have pcNext : s.pc + 1 + 1 = s.pc + 2 := BitVec.add_assoc _ _ _
  rw [State.fetchEdge_eq]
  refine ⟨rfl, rfl, ?_, trivial⟩
  simp only [pcNext]
  rfl

/-- The exec edges of a legal instruction are its meaning. -/
theorem endsAfter_of_decode {i : Instr} {rest : List Byte} (hs : AtBoundary s)
    (h : decode [byte0 s, byte1 s, byte2 s] = .ok (i, rest)) :
    EndsAfter (execCycles i) s.fetchEdge (s.run (encode i) (handlerRows i)) := by
  obtain ⟨j, hj, hrows⟩ := exists_opcodeInstr_of_decode h
  have hbytes : s.fetchEdge.Supplies (encode i) :=
    State.Supplies.of_append (encode_append_of_decode h ▸ supplies_fetchEdge s)
  rw [← handlerRows_length]
  exact endsAfter_of_course hj (course_handlerRows i) hs.inFlight_fetchEdge hrows hbytes

/-- The exec edge of an illegal opcode halts the core. -/
theorem endsAfter_of_illegal (hs : AtBoundary s) (h : lookupForm opcodeMap (byte0 s) = none) :
    EndsAfter 1 s.fetchEdge (s.takeIllegalOpcode (byte0 s)) := by
  obtain ⟨hf, hh, -, hunset, hdata⟩ := hs.inFlight_fetchEdge
  have hrow : dispatchRow (s.fetchEdge.latchOpcode s.fetchEdge.bus.data).opcode s.fetchEdge.state
      = some illegalRow := by
    rw [State.latchOpcode_unset _ hunset, hdata]
    exact dispatchRow_of_noRow _ h
  have hedge := State.edge_of_tick (State.tick_of_exec hh hf hrow)
  rw [hdata] at hedge
  exact .edge hf hh hedge (.done (ended_execEdge ends_illegalRow _))

/-- Edges from the boundary: the fetch edge and those after it. -/
theorem AtBoundary.edges_succ (hs : AtBoundary s) (n : Nat) :
    State.edges (n + 1) s = State.edges n s.fetchEdge :=
  State.edges_succ_of_edge n hs.edge_eq

theorem AtBoundary.inFlight_of_edges {m n : Nat} {t v : State} (hs : AtBoundary s)
    (h : EndsAfter m s.fetchEdge v) (hn : n < m + 1) (ht : State.edges n s = .next t) (hpos : n ≠ 0) :
    t.fetch = false ∧ t.halt = false := by
  obtain ⟨n, rfl⟩ := Nat.exists_eq_succ_of_ne_zero hpos
  rw [Nat.succ_eq_add_one, hs.edges_succ] at ht
  exact h.inFlight_of_edges (Nat.lt_of_succ_lt_succ hn) ht

/-! ### The step from the boundary -/

theorem AtBoundary.step_of_decode {i : Instr} {rest : List Byte} (hs : AtBoundary s)
    (hp : s.platformOk = true) (h : decode [byte0 s, byte1 s, byte2 s] = .ok (i, rest)) :
    step s = exec i s := by
  have hdecode : decode s.instrBytes = .ok (i, rest) := h
  rw [step_at_boundary hs.1 hs.2 hp, State.stepFetched, hdecode]

theorem AtBoundary.step_of_illegal (hs : AtBoundary s) (hp : s.platformOk = true)
    (h : lookupForm opcodeMap (byte0 s) = none) :
    step s = .next (s.takeIllegalOpcode (byte0 s)) :=
  (step_at_boundary hs.1 hs.2 hp).trans (State.stepFetched_of_noRow h)

/-- Every step from a boundary is a fetch edge and at most four more edges. -/
theorem AtBoundary.exists_endsAfter (hs : AtBoundary s) (hp : s.platformOk = true) :
    ∃ m v, m ≤ maxCycles ∧ EndsAfter m s.fetchEdge v ∧ step s = .next v := by
  cases h : decode [byte0 s, byte1 s, byte2 s] with
  | ok r =>
    obtain ⟨i, rest⟩ := r
    exact ⟨_, _, execCycles_le i, endsAfter_of_decode hs h,
      (hs.step_of_decode hp h).trans (exec_eq_run i s)⟩
  | error e =>
    have hrow := lookupForm_of_decode_error h
    exact ⟨1, _, by decide, endsAfter_of_illegal hs hrow, hs.step_of_illegal hp hrow⟩

end

end Sys2Proof.Claims

namespace Sys2Proof.Proofs

open Sys2Proof Sys2Proof.Machine Sys2Proof.Claims

/-- Settles O16: the exec edges sample the bytes that the meaning is given (`endsAfter_of_course`, by
induction on the rows of the tick table), after the fetch edge that both begin with. -/
theorem stepIsItsEdges : Obligations.StepIsItsEdges := by
  intro s hs
  refine ⟨fun i rest h => ?legal, fun e h => ?illegal⟩
  case legal =>
    have hends := endsAfter_of_decode hs h
    have hedges : State.edges (ticksOf i) s = exec i s := by
      rw [ticksOf, hs.edges_succ, hends.edges_eq, exec_eq_run]
    exact ⟨hedges, fun n t hn ht hpos => hs.inFlight_of_edges hends hn ht hpos,
      fun hp => (hs.step_of_decode hp h).trans hedges.symm⟩
  case illegal =>
    have hrow := lookupForm_of_decode_error h
    have hends := endsAfter_of_illegal hs hrow
    have hedges : State.edges 2 s = .next (s.takeIllegalOpcode (byte0 s)) := by
      rw [hs.edges_succ, hends.edges_eq]
    exact ⟨hedges, fun t ht => hs.inFlight_of_edges hends (by decide) ht (by decide),
      fun hp => (hs.step_of_illegal hp hrow).trans hedges.symm⟩

/-- Settles O18: `n` edges in flight are fewer than the edges of the whole instruction, and carrying the
rest of them to the boundary gives the same end. -/
theorem stepCompletesAnInstructionInFlight : Obligations.StepCompletesAnInstructionInFlight := by
  intro s t n hs hp hpos ht hflight
  obtain ⟨m, v, hm, hends, hstep⟩ := hs.exists_endsAfter hp
  obtain ⟨hf, hh⟩ := hflight n t hpos (Nat.le_refl n) ht
  have hn : n ≤ m := by
    by_contra hlt
    have hv : State.edges (m + 1) s = .next v := (hs.edges_succ m).trans hends.edges_eq
    obtain ⟨hvf, hvh⟩ := hflight (m + 1) v (Nat.succ_pos m) (by omega) hv
    rcases hends.ended with h | h
    · rw [hvf] at h
      cases h
    · rw [hvh] at h
      cases h
  obtain ⟨k, rfl⟩ := Nat.exists_eq_succ_of_ne_zero (Nat.pos_iff_ne_zero.1 hpos)
  have hrest := hends.after_edges (by omega) ((hs.edges_succ k).symm.trans ht)
  have hpt : t.platformOk = true := (State.platformOk_congr (State.edges_cfgs ht)).trans hp
  rw [hstep, ← hrest.finish_eq (fuel := maxCycles) (by omega)]
  simp [step, hpt, hf, hh]

end Sys2Proof.Proofs
end

section
/-! PROOFS. The device part of an edge, the windows of a well-formed platform, and the platforms that
the step refuses (20_memory.md rules R78 to R86, R101). -/

namespace Sys2Proof.Machine

/-! ### Windows -/

theorem platformWf_cons_iff (c : DeviceConfig) (cs : List DeviceConfig) :
    platformWf (c :: cs) = true ↔
      c.fits = true ∧ (∀ e ∈ cs, c.disjoint e = true) ∧ platformWf cs = true := by
  simp [platformWf, and_assoc]

theorem fits_of_platformWf {cs : List DeviceConfig} (h : platformWf cs = true) :
    ∀ c ∈ cs, c.fits = true := by
  induction cs with
  | nil => simp
  | cons c cs ih =>
    obtain ⟨hc, -, hcs⟩ := (platformWf_cons_iff c cs).1 h
    exact List.forall_mem_cons.2 ⟨hc, ih hcs⟩

/-- A window that fits is an interval of addresses (20_memory.md rule R79). -/
theorem Device.claims_iff_of_fits {d : Device} (hd : d.cfg.fits = true) (A : Word) :
    d.claims A = true ↔ d.cfg.mountBase.toNat ≤ A.toNat ∧
      A.toNat < d.cfg.mountBase.toNat + d.cfg.windowSize.toNat := by
  have hfits : d.cfg.mountBase.toNat + d.cfg.windowSize.toNat ≤ 65536 := by
    simpa [DeviceConfig.fits] using hd
  have hA := A.isLt
  have hbase := d.cfg.mountBase.isLt
  rw [d.claims_iff, d.offset_toNat]
  omega

/-- Disjoint windows share no address (20_memory.md rule R86). -/
theorem Device.not_claims_of_disjoint {d e : Device} {A : Word} (hd : d.cfg.fits = true)
    (he : e.cfg.fits = true) (hde : d.cfg.disjoint e.cfg = true) (hA : d.claims A = true) :
    e.claims A = false := by
  rw [← Bool.not_eq_true, e.claims_iff_of_fits he]
  obtain ⟨hlow, hhigh⟩ := (d.claims_iff_of_fits hd A).1 hA
  simp only [DeviceConfig.disjoint, Bool.or_eq_true, decide_eq_true_eq] at hde
  bv_omega

theorem claimer_eq_none {ds : List Device} {A : Word} (h : ∀ d ∈ ds, d.claims A = false) :
    claimer ds A = none := by
  cases hc : claimer ds A with
  | none => rfl
  | some d => exact absurd (claimer_claims hc) (by simp [h d (claimer_mem hc)])

/-- On a well-formed platform the device that answers for an address is the only one that claims it
(20_memory.md rules R86, R90). -/
theorem filter_claims_eq {ds : List Device} (h : platformWf (ds.map (fun d => d.cfg)) = true)
    (A : Word) : ds.filter (fun d => d.claims A) = (claimer ds A).toList := by
  induction ds with
  | nil => rfl
  | cons d ds ih =>
    obtain ⟨hd, hdisjoint, hds⟩ := (platformWf_cons_iff _ _).1 h
    by_cases hA : d.claims A = true
    · have others : ∀ e ∈ ds, e.claims A = false := fun e he =>
        Device.not_claims_of_disjoint hd (fits_of_platformWf hds _ (List.mem_map_of_mem he))
          (hdisjoint _ (List.mem_map_of_mem he)) hA
      have unclaimed : ds.filter (fun e => e.claims A) = [] :=
        List.filter_eq_nil_iff.2 fun e he => by simp [others e he]
      rw [List.filter_cons, if_pos hA, unclaimed, claimer, claimer_eq_none others]
      simp [hA]
    · rw [List.filter_cons, if_neg hA, ih hds, claimer]
      cases claimer ds A <;> simp [hA]

theorem length_filter_claims_le {ds : List Device}
    (h : platformWf (ds.map (fun d => d.cfg)) = true) (A : Word) :
    (ds.filter (fun d => d.claims A)).length ≤ 1 := by
  rw [filter_claims_eq h]
  cases claimer ds A <;> simp

theorem claimer_eq_of_claims {ds : List Device} (h : platformWf (ds.map (fun d => d.cfg)) = true)
    {d : Device} (hd : d ∈ ds) {A : Word} (hA : d.claims A = true) : claimer ds A = some d := by
  have hmem : d ∈ ds.filter (fun e => e.claims A) := List.mem_filter.2 ⟨hd, hA⟩
  rw [filter_claims_eq h] at hmem
  exact Option.mem_toList.1 hmem

/-! ### What is never refused -/

theorem State.tick_ne_refused (s : State) (r : Refusal) : s.tick ≠ .refused r := by
  unfold State.tick
  split
  · simp
  · split
    · simp
    · simp only
      split
      · simp
      · simp

theorem State.edge_ne_refused (s : State) (r : Refusal) : s.edge ≠ .refused r := by
  unfold State.edge
  split
  · simp
  · simp
  · next q ht => exact absurd ht (s.tick_ne_refused q)

theorem State.finish_ne_refused (fuel : Nat) (s : State) (r : Refusal) : s.finish fuel ≠ .refused r := by
  induction fuel generalizing s with
  | zero => exact fun h => by cases h
  | succ fuel ih =>
    intro h
    rw [State.finish] at h
    split at h
    · cases h
    · split at h
      · exact ih _ h
      · cases h
      · next q he => exact s.edge_ne_refused q he

/-- An instruction and an illegal opcode both have a next state. -/
theorem State.exists_stepFetched (s : State) : ∃ t, s.stepFetched = .next t := by
  rw [State.stepFetched]
  split
  · next i _ _ => exact ⟨_, exec_eq_run i s⟩
  · exact ⟨_, rfl⟩

theorem step_eq_refused_iff (s : State) :
    step s = .refused .illFormedPlatform ↔ s.platformOk = false := by
  rcases step_cases s with ⟨hp, hstep⟩ | ⟨hp, ⟨-, hstep⟩ | ⟨-, -, hstep⟩ | ⟨-, -, hstep⟩⟩
  · simp [hp, hstep]
  · simp [hp, hstep, s.edge_ne_refused]
  · obtain ⟨t, ht⟩ := s.exists_stepFetched
    simp [hp, hstep, ht]
  · simp [hp, hstep, s.finish_ne_refused]

end Sys2Proof.Machine

namespace Sys2Proof.Proofs

open Sys2Proof Sys2Proof.Machine Sys2Proof.Claims

/-- Settles O9: the devices answer the latched read, after which the bus holds it answered, so that
another tick of them changes nothing. -/
theorem readIsAnsweredOrStale : Obligations.ReadIsAnsweredOrStale := by
  intro s hr
  have latched : s.Latched (.read s.bus.address) := ⟨rfl, hr⟩
  have answered := State.tickDevices_of_read hr
  refine ⟨⟨answered, ?again⟩, fun v hv => ?claimed, fun hv => ?unclaimed⟩
  case again => exact State.tickDevices_of_holdsRead (State.holdsBusOp_tickDevices latched)
  case claimed =>
    rw [answered]
    exact State.answer_claimed _ hv
  case unclaimed => exact State.tickDevices_of_holdsRead ⟨latched, State.answer_unclaimed _ hv⟩

/-- Settles O10: the device part of a write edge stores the one byte and changes the stores alone. -/
theorem writeIsStoredOrLost : Obligations.WriteIsStoredOrLost := by
  intro s hw
  rw [State.tickDevices_of_write hw]
  exact ⟨rfl, storesOnly_storeByte rfl _ _⟩

/-- Settles O11: the claiming devices of an address are the answering one alone. -/
theorem oneDeviceClaimsAnAddress : Obligations.OneDeviceClaimsAnAddress := by
  intro s A hp
  refine ⟨length_filter_claims_le hp A, fun d hd hA => ?_⟩
  rw [State.memRead, claimer_eq_of_claims hp hd hA, Option.map_some]

/-- Settles O29: only the platform test refuses; a window past the top does not fit, and two devices of
one address are one too many. -/
theorem illFormedPlatformIsRefused : Obligations.IllFormedPlatformIsRefused := by
  intro s
  refine ⟨step_eq_refused_iff s, fun d hd htop => ?pastTheTop,
    fun front back d e A hds hd he hdA heA => ?overlap⟩
  case pastTheTop =>
    refine Bool.eq_false_iff.2 fun hp => ?_
    have hfits := fits_of_platformWf hp _ (List.mem_map_of_mem hd)
    simp only [DeviceConfig.fits, decide_eq_true_eq] at hfits
    omega
  case overlap =>
    refine Bool.eq_false_iff.2 fun hp => ?_
    have hone := length_filter_claims_le hp A
    rw [hds, List.filter_append, List.length_append] at hone
    have hfront : 0 < (front.filter (fun d => d.claims A)).length :=
      List.length_pos_of_mem (List.mem_filter.2 ⟨hd, hdA⟩)
    have hback : 0 < (back.filter (fun d => d.claims A)).length :=
      List.length_pos_of_mem (List.mem_filter.2 ⟨he, heA⟩)
    omega

end Sys2Proof.Proofs
end

section
/-! PROOFS. The instructions family by family: HALT and the division by zero, what a whole instruction
leaves alone, and the registers that it cannot observe (10_state.md rules R35 and R36, 48_halt.md,
60_exceptions.md rule R402). -/

namespace Sys2Proof.Claims

open Sys2Proof Sys2Proof.Machine

/-! ### The families -/

/-- Every instruction is a row of a table, or HALT, DIV, CALL or RET (30_encoding.md rule R128). -/
theorem forall_instr_of_families {P : Instr → Prop} (halt : P .halt) (div : P .div) (ret : P .ret)
    (call : ∀ w, P (.call w)) (set : ∀ e ∈ setTable, ∀ w, P (e.2.1 w))
    (load : ∀ e ∈ loadTable, ∀ w, P (e.2.1 w)) (store : ∀ e ∈ storeTable, ∀ w, P (e.2.1 w))
    (indirect : ∀ e ∈ indirectTable, P e.2.1) (push : ∀ e ∈ pushTable, P e.2.1)
    (pop : ∀ e ∈ popTable, P e.2.1) (alu : ∀ e ∈ aluTable, P e.2.1)
    (pointer : ∀ e ∈ pointerTable, P e.2.1) (relJump : ∀ e ∈ relJumpTable, ∀ v, P (e.2.1 v))
    (absJump : ∀ e ∈ absJumpTable, ∀ w, P (e.2.1 w)) (transfer : ∀ e ∈ transferTable, P e.2.1)
    (i : Instr) : P i := by
  simp only [setTable, loadTable, storeTable, indirectTable, pushTable, popTable, aluTable,
    pointerTable, relJumpTable, absJumpTable, transferTable, List.forall_mem_cons, List.not_mem_nil,
    false_implies, implies_true, and_true]
    at set load store indirect push pop alu pointer relJump absJump transfer
  cases i with
  | halt => exact halt
  | div => exact div
  | ret => exact ret
  | call w => exact call w
  | setstk | seta | setb | setx | sety => simp only [set]
  | ldal | ldah | ldbl | ldbh | ldxl | ldxh | ldyl | ldyh => simp only [load]
  | stal | stah | stbl | stbh | stxl | stxh | styl | styh => simp only [store]
  | lxal | lxah | lxbl | lxbh | lxxl | lxxh | lxyl | lxyh
  | lyal | lyah | lybl | lybh | lyxl | lyxh | lyyl | lyyh => simp only [indirect]
  | pushal | pushah | pushbl | pushbh | pushxl | pushxh | pushyl | pushyh => simp only [push]
  | popal | popah | popbl | popbh | popxl | popxh | popyl | popyh => simp only [pop]
  | add | sub | mul => simp only [alu]
  | incx | decx | incy | decy => simp only [pointer]
  | jmpr | jeqr | jgtr | jltr => simp only [relJump]
  | jmp | jeq | jgt | jlt => simp only [absJump]
  | tab | tax | tay | tba | tbx | tby | txa | txb | txy | tya | tyb | tyx => simp only [transfer]

/-! ### HALT and the division by zero -/

/-- The only cycle of HALT. -/
def haltRow : Row := fun _ s => { s with halt := true }

theorem isByteRow_halt : IsByteRow 0x01 .halt [haltRow] := ⟨rfl, rfl, rfl, by decide⟩

section
variable {s : State}

/-- HALT does not advance, so its cycle is counted (48_halt.md rule R390). -/
theorem execTick_haltRow {op : Byte} (hop : op ≠ 0) (hunset : s.opcode = 0) :
    s.execTick op haltRow = { s with opcode := op, state := s.state + 1, halt := true } := by
  rw [State.execTick, State.latchOpcode_unset op hunset]
  exact State.countCycle_set hop

theorem tick_of_halt_instr (hs : InFlight s 0x01 0) :
    s.tick = .next { s with opcode := 0x01, state := 1, halt := true } := by
  have htick := isByteRow_halt.tick_eq hs rfl
  obtain ⟨-, -, hstate, hunset, hdata⟩ := hs
  rw [htick, hdata, execTick_haltRow (by decide) hunset, hstate]
  rfl

/-- Both edges of a HALT; the second holds the answered fetch read of the first (20_memory.md rule
R83). -/
theorem exec_halt (s : State) :
    exec .halt s = .next { s with
      opcode := 0x01, state := 1, fetch := false, halt := true, bus := ⟨s.pc, byte0 s, true⟩ } := by
  have answered : s.answer s.pc (byte0 s) = byte0 s := s.answer_answer _ _
  rw [isByteRow_halt.exec_single, State.execEdge, execTick_haltRow (by decide) rfl,
    State.tickDevices_of_holdsRead (A := s.pc) ⟨⟨rfl, rfl⟩, answered⟩]
  rfl

theorem exec_div_zero (hb : s.b = 0) :
    exec .div s = .next (haltedAt s 0x84 [⟨.divideByZero, 0x84, s.pc⟩]) := by
  have fetched : (s.inCycle 0 0 s.pc ⟨s.pc, byte0 s, true⟩).b = 0 := hb
  have answered : s.answer s.pc (byte0 s) = byte0 s := s.answer_answer _ _
  rw [isByteRow_div.exec_single, State.execEdge, execTick_divRow_of_zero (by decide) rfl fetched,
    State.tickDevices_of_holdsRead (A := s.pc) ⟨⟨rfl, rfl⟩, answered⟩]
  rfl

/-- Edges of a halted core whose bus holds an answered read change nothing (20_memory.md rule R83,
40_controller.md rule R172). -/
theorem edge_of_halted {A : Word} (hh : s.halt = true) (hbus : s.HoldsBusOp (.read A)) :
    s.edge = .next s := by
  rw [State.edge_of_tick (State.tick_of_halt hh), State.tickDevices_of_holdsRead hbus]

theorem edges_of_halted {A : Word} (hh : s.halt = true) (hbus : s.HoldsBusOp (.read A)) (n : Nat) :
    State.edges n s = .next s := by
  induction n with
  | zero => rfl
  | succ n ih => rw [State.edges_succ_of_edge n (edge_of_halted hh hbus), ih]

end

/-! ### What a whole instruction leaves alone -/

/-- The instructions that issue a write. -/
def WritesMemory (i : Instr) : Prop :=
  (∃ e ∈ storeTable, ∃ w, i = e.2.1 w) ∨ (∃ e ∈ pushTable, i = e.2.1) ∨ ∃ w, i = .call w

/-- A meaning begins with the fetch edge, which clears `fetch`. -/
theorem exec_atFetch (i : Instr) (s : State) : exec i { s with fetch := true } = exec i s := by
  rw [exec_eq_run, exec_eq_run]
  rfl

/-- Only HALT and DIV can end without an advance, and only ST, PUSH and CALL touch a store. -/
def Frame (i : Instr) : Prop :=
  ∀ s : State, s.fetch = true → ∃ t, exec i s = .next t ∧
    (i ≠ .halt → i ≠ .div → t.log = s.log ∧ t.halt = s.halt) ∧
    (¬ WritesMemory i → t.devices = s.devices)

theorem frame_of_next {i : Instr} {f : State → State} (h : ∀ s, s.fetch = true → exec i s = .next (f s))
    (hlog : ∀ s, (f s).log = s.log) (hhalt : ∀ s, (f s).halt = s.halt)
    (hdevices : ¬ WritesMemory i → ∀ s, (f s).devices = s.devices) : Frame i :=
  fun s hf => ⟨f s, h s hf, fun _ _ => ⟨hlog s, hhalt s⟩, fun hi => hdevices hi s⟩

theorem frame_div : Frame .div := by
  intro s hf
  by_cases hb : s.b = 0
  · exact ⟨_, exec_div_zero hb, fun _ h => absurd rfl h, fun _ => rfl⟩
  · exact ⟨_, exec_div hf hb, fun _ h => absurd rfl h, fun _ => by simp⟩

theorem exec_frame (i : Instr) : Frame i := by
  induction i using forall_instr_of_families with
  | halt => exact fun s _ => ⟨_, exec_halt s, fun h => absurd rfl h, fun _ => rfl⟩
  | div => exact frame_div
  | ret =>
    exact frame_of_next (fun s hf => exec_ret hf rfl rfl) (fun _ => rfl) (fun _ => rfl)
      (fun _ _ => rfl)
  | call w =>
    exact frame_of_next (fun s hf => exec_call w hf) (fun _ => rfl) (fun _ => rfl)
      (fun h => absurd (.inr (.inr ⟨w, rfl⟩)) h)
  | set e he w =>
    exact frame_of_next (fun s hf => (isSetRow_of_mem e he).exec_eq w hf) (by simp) (by simp) (by simp)
  | load e he w =>
    exact frame_of_next (fun s hf => (isLoadRow_of_mem e he).exec_eq w hf) (by simp) (by simp) (by simp)
  | store e he w =>
    exact frame_of_next (fun s hf => (isStoreRow_of_mem e he).exec_eq w hf) (fun _ => rfl)
      (fun _ => rfl) (fun h => absurd (.inl ⟨e, he, w, rfl⟩) h)
  | indirect e he =>
    exact frame_of_next (fun s hf => (isIndirectRow_of_mem e he).exec_eq hf) (by simp) (by simp)
      (by simp)
  | push e he =>
    exact frame_of_next (fun s hf => exec_push (isByteRow_of_mem_pushTable e he) hf) (fun _ => rfl)
      (fun _ => rfl) (fun h => absurd (.inr (.inl ⟨e, he, rfl⟩)) h)
  | pop e he =>
    exact frame_of_next (fun s hf => (isPopRow_of_mem e he).exec_eq hf) (by simp) (by simp) (by simp)
  | alu e he =>
    exact frame_of_next (fun s hf => (isWriteRow_of_mem_aluTable e he).exec_eq hf) (by simp) (by simp)
      (by simp)
  | pointer e he =>
    exact frame_of_next (fun s hf => (isWriteRow_of_mem_pointerTable e he).exec_eq hf) (by simp)
      (by simp) (by simp)
  | relJump e he v =>
    exact frame_of_next (fun s hf => (isRelJumpRow_of_mem e he).exec_eq v hf) (fun _ => rfl)
      (fun _ => rfl) (fun _ _ => rfl)
  | absJump e he w =>
    exact frame_of_next (fun s hf => exec_absJump (isAddressRow_of_mem_absJumpTable e he) w hf)
      (fun _ => rfl) (fun _ => rfl) (fun _ _ => rfl)
  | transfer e he =>
    exact frame_of_next (fun s hf => (isWriteRow_of_mem_transferTable e he).exec_eq hf) (by simp)
      (by simp) (by simp)

/-- From a boundary an instruction other than DIV logs nothing, and only HALT halts (60_exceptions.md
rule R400). -/
theorem AtBoundary.exec_quiet {i : Instr} {s : State} (hs : AtBoundary s) (hi : i ≠ .div) :
    ∃ t, exec i s = .next t ∧ t.log = s.log ∧ (t.halt = true ↔ i = .halt) := by
  by_cases hhalt : i = .halt
  · subst hhalt
    exact ⟨_, exec_halt s, rfl, by simp⟩
  · obtain ⟨t, ht, hquiet, -⟩ := exec_frame i s hs.1
    obtain ⟨hlog, hh⟩ := hquiet hhalt hi
    exact ⟨t, ht, hlog, by simp [hh, hs.2, hhalt]⟩

end Sys2Proof.Claims

namespace Sys2Proof.Proofs

open Sys2Proof Sys2Proof.Machine Sys2Proof.Claims

/-- Settles O33: the tick and the two edges of HALT; it ends halted with its answered fetch read on the
bus, and edges keep such a state. -/
theorem haltStopsTheCore : Obligations.HaltStopsTheCore := by
  refine ⟨isByteRow_halt.encode_eq, isByteRow_halt.cycles_eq, fun s hs => ?cycle0,
    fun s _ => ⟨exec_halt s, ?memory⟩, fun s t n _ ht => ?inert⟩
  case cycle0 => exact tick_of_halt_instr hs
  case memory => exact State.memRead_congr rfl
  case inert =>
    rw [exec_halt] at ht
    cases ht
    have answered : s.answer s.pc (byte0 s) = byte0 s := s.answer_answer _ _
    exact edges_of_halted (A := s.pc) rfl ⟨⟨rfl, rfl⟩, answered⟩ n

/-- Settles O40: the tick and the edges of DIV with b = 0, and the frame of every other instruction. -/
theorem divisionByZeroHaltsTheCore : Obligations.DivisionByZeroHaltsTheCore := by
  refine ⟨?code, fun s hs hb => ?cycle0, fun s _ hb => ⟨exec_div_zero hb, ?memory⟩,
    fun i s hs hi => ?others⟩
  case code => rfl
  case cycle0 =>
    refine ⟨_, tick_of_div_zero hs hb, rfl, rfl, fun r => ?_⟩
    cases r with
    | pc | stk | adr | a | b | x | y => rfl
  case memory => exact State.memRead_congr rfl
  case others => exact hs.exec_quiet hi

/-- Settles O30: an instruction that issues no write leaves the stores as they were. -/
theorem onlyStoresPushesAndCallsChangeMemory : Obligations.OnlyStoresPushesAndCallsChangeMemory := by
  intro i s t ht hstore hpush hcall A
  have quiet : ¬ WritesMemory i := by
    rintro (⟨e, he, w, hi⟩ | ⟨e, he, hi⟩ | ⟨w, hi⟩)
    · exact hstore e he w hi
    · exact hpush e he hi
    · exact hcall w hi
  obtain ⟨u, hu, -, hdevices⟩ := exec_frame i { s with fetch := true } rfl
  rw [exec_atFetch, ht] at hu
  cases hu
  exact State.memRead_congr (hdevices quiet) A

end Sys2Proof.Proofs
end

section
/-! PROOFS. The registers that a program cannot read: two states that differ in one of them alone run an
instruction to states that differ in it at most (10_state.md rules R35 and R36). -/

namespace Sys2Proof.Machine

theorem State.set_set_same (s : State) (r : Reg) (v w : Word) : (s.set r v).set r w = s.set r w := by
  cases r <;> rfl

/-- Writes to two registers do not see each other (10_state.md rule R31). -/
theorem State.set_set_other (s : State) {r r' : Reg} (h : r' ≠ r) (v w : Word) :
    (s.set r v).set r' w = (s.set r' w).set r v := by
  cases r <;> cases r' <;> simp [State.set] at h ⊢

end Sys2Proof.Machine

namespace Sys2Proof.Claims

open Sys2Proof Sys2Proof.Machine

/-! ### States that agree but for one register -/

/-- `t` and `u` differ in the register `k` at most. -/
def AgreeOff (k : Reg) (t u : State) : Prop := u = t.set k (u.get k)

/-- The registers whose value no instruction copies elsewhere: the address latch and the stack pointer
(10_state.md rules R35 and R36). -/
def Hidden (k : Reg) : Prop := k = .adr ∨ k = .stk

theorem agreeOff_set (s : State) (k : Reg) (v : Word) : AgreeOff k s (s.set k v) := by
  rw [AgreeOff, State.get_set_same]

section
variable {k : Reg} {t u : State}

theorem AgreeOff.get_eq (h : AgreeOff k t u) {r : Reg} (hr : r ≠ k) : u.get r = t.get r := by
  rw [h, State.get_set_other _ _ hr]

theorem AgreeOff.set_same (h : AgreeOff k t u) (v w : Word) : AgreeOff k (t.set k v) (u.set k w) := by
  rw [AgreeOff, State.get_set_same, State.set_set_same, h, State.set_set_same]

theorem AgreeOff.set (h : AgreeOff k t u) (r : Reg) (w : Word) :
    AgreeOff k (t.set r w) (u.set r w) := by
  by_cases hr : r = k
  · subst hr
    exact h.set_same w w
  · rw [AgreeOff, State.get_set_other _ _ (Ne.symm hr), ← State.set_set_other _ hr, ← h]

theorem AgreeOff.setHalf (h : AgreeOff k t u) (half : Half) (D : Byte) :
    AgreeOff k (t.setHalf half D) (u.setHalf half D) := by
  by_cases hr : half.reg = k
  · subst hr
    exact h.set_same _ _
  · rw [State.setHalf, State.setHalf, h.get_eq hr]
    exact h.set half.reg _

/-- The fields beside the registers, as an instruction leaves them at its boundary. -/
theorem AgreeOff.boundary (h : AgreeOff k t u) (hk : Hidden k) (pc : Word) (bus : Bus) :
    AgreeOff k { t with pc := pc, opcode := 0, state := 0, bus := bus }
      { u with pc := pc, opcode := 0, state := 0, bus := bus } := by
  rw [h]
  rcases hk with rfl | rfl
  · rfl
  · rfl

theorem AgreeOff.storeByte (h : AgreeOff k t u) (A : Word) (v : Byte) :
    AgreeOff k (t.storeByte A v) (u.storeByte A v) := by
  rw [h]
  cases k with
  | pc | stk | adr | a | b | x | y => rfl

end

/-! ### What does not see a hidden register -/

section
variable {k : Reg} {s : State} {v : Word}

theorem answer_set (A : Word) (D : Byte) : (s.set k v).answer A D = s.answer A D :=
  State.answer_congr (s.set_devices k v) A D

theorem Hidden.get_set (hk : Hidden k) {r : Reg} (hadr : r ≠ .adr) (hstk : r ≠ .stk) :
    (s.set k v).get r = s.get r := by
  rcases hk with rfl | rfl
  · exact s.get_set_other v hadr
  · exact s.get_set_other v hstk

theorem Hidden.get_pointer (hk : Hidden k) {p : Reg} (hp : p = .x ∨ p = .y) :
    (s.set k v).get p = s.get p := by
  rcases hp with rfl | rfl
  all_goals exact hk.get_set (by decide) (by decide)

theorem Hidden.pc_set (hk : Hidden k) : (s.set k v).pc = s.pc :=
  hk.get_set (r := .pc) (by decide) (by decide)

theorem Hidden.b_set (hk : Hidden k) : (s.set k v).b = s.b :=
  hk.get_set (r := .b) (by decide) (by decide)

theorem Hidden.byte0_set (hk : Hidden k) : byte0 (s.set k v) = byte0 s := by
  rw [byte0, answer_set, hk.pc_set, State.set_bus, byte0]

theorem Hidden.byte1_set (hk : Hidden k) : byte1 (s.set k v) = byte1 s := by
  rw [byte1, answer_set, hk.pc_set, hk.byte0_set, byte1]

theorem Hidden.byte2_set (hk : Hidden k) : byte2 (s.set k v) = byte2 s := by
  rw [byte2, answer_set, hk.pc_set, hk.byte1_set, byte2]

theorem Hidden.holds_set (hk : Hidden k) (c : Cond) : c.holds (s.set k v) = c.holds s := by
  rcases hk with rfl | rfl
  · cases c <;> rfl
  · cases c <;> rfl

theorem Hidden.relTarget_set (hk : Hidden k) (c : Cond) (pc : Word) (D : Byte) :
    c.relTarget (s.set k v) pc D = c.relTarget s pc D := by
  rw [Cond.relTarget, hk.holds_set, Cond.relTarget]

theorem Hidden.absTarget_set (hk : Hidden k) (c : Cond) (pc w : Word) :
    c.absTarget (s.set k v) pc w = c.absTarget s pc w := by
  rw [Cond.absTarget, hk.holds_set, Cond.absTarget]

end

/-! ### Instructions that do not read a hidden register -/

/-- The instruction runs states that agree but for `k` to states that agree but for `k`. -/
def Blind (k : Reg) (i : Instr) : Prop :=
  ∀ (s : State) (v : Word), s.fetch = true →
    ∃ t u, exec i s = .next t ∧ exec i (s.set k v) = .next u ∧ AgreeOff k t u

theorem blind_of_next {k : Reg} {i : Instr} {f : State → State}
    (h : ∀ s, s.fetch = true → exec i s = .next (f s))
    (hf : ∀ s v, AgreeOff k (f s) (f (s.set k v))) : Blind k i :=
  fun s v hs => ⟨_, _, h s hs, h (s.set k v) ((s.set_fetch k v).trans hs), hf s v⟩

section
variable {k : Reg}

theorem blind_halt (hk : Hidden k) : Blind k .halt := by
  refine blind_of_next (fun s _ => exec_halt s) fun s v => ?_
  rcases hk with rfl | rfl
  · rfl
  · rfl

theorem blind_set (hk : Hidden k) : ∀ e ∈ setTable, ∀ w, Blind k (e.2.1 w) := by
  intro e he w
  refine blind_of_next (fun s hf => (isSetRow_of_mem e he).exec_eq w hf) fun s v => ?_
  simp only [hk.pc_set, hk.byte2_set]
  exact ((agreeOff_set s k v).set e.2.2 w).boundary hk _ _

theorem blind_load (hk : Hidden k) : ∀ e ∈ loadTable, ∀ w, Blind k (e.2.1 w) := by
  intro e he w
  refine blind_of_next (fun s hf => (isLoadRow_of_mem e he).exec_eq w hf) fun s v => ?_
  simp only [hk.pc_set, hk.byte2_set, answer_set]
  exact (((agreeOff_set s k v).setHalf e.2.2 _).set .adr w).boundary hk _ _

theorem stored_ne_stk : ∀ e ∈ storeTable, e.2.2.reg ≠ .stk := by decide

theorem blind_store (hk : Hidden k) : ∀ e ∈ storeTable, ∀ w, Blind k (e.2.1 w) := by
  intro e he w
  have hst := isStoreRow_of_mem e he
  refine blind_of_next (fun s hf => hst.exec_eq w hf) fun s v => ?_
  have stored : (s.set k v).getHalf e.2.2 = s.getHalf e.2.2 :=
    congrArg _ (hk.get_set hst.half_ne_adr (stored_ne_stk e he))
  simp only [hk.pc_set, stored]
  exact (((agreeOff_set s k v).set .adr w).boundary hk _ _).storeByte _ _

theorem pointer_of_mem_indirectTable : ∀ e ∈ indirectTable, e.2.2.1 = .x ∨ e.2.2.1 = .y := by decide

theorem blind_indirect (hk : Hidden k) : ∀ e ∈ indirectTable, Blind k e.2.1 := by
  intro e he
  refine blind_of_next (fun s hf => (isIndirectRow_of_mem e he).exec_eq hf) fun s v => ?_
  simp only [hk.pc_set, hk.byte0_set, answer_set,
    hk.get_pointer (pointer_of_mem_indirectTable e he)]
  exact ((agreeOff_set s k v).setHalf e.2.2.2 _).boundary hk _ _

/-- An instruction that computes a register from others than `k`. -/
theorem blind_write (hk : Hidden k) {op : Byte} {i : Instr} {r : Reg} {value : State → Word}
    (h : IsWriteRow op i r value) (hvalue : ∀ s v, value (s.set k v) = value s) : Blind k i := by
  refine blind_of_next (fun s hf => h.exec_eq hf) fun s v => ?_
  simp only [hk.pc_set, hk.byte0_set, hvalue]
  exact ((agreeOff_set s k v).set r _).boundary hk _ _

theorem blind_alu (hk : Hidden k) : ∀ e ∈ aluTable, Blind k e.2.1 := by
  intro e he
  refine blind_write hk (isWriteRow_of_mem_aluTable e he) fun s v => ?_
  rcases hk with rfl | rfl
  · rfl
  · rfl

theorem pointer_of_mem_pointerTable : ∀ e ∈ pointerTable, e.2.2.1 = .x ∨ e.2.2.1 = .y := by decide

theorem blind_pointer (hk : Hidden k) : ∀ e ∈ pointerTable, Blind k e.2.1 := by
  intro e he
  refine blind_write hk (isWriteRow_of_mem_pointerTable e he) fun s v => ?_
  rw [pointerStep, hk.get_pointer (pointer_of_mem_pointerTable e he), pointerStep]

theorem source_of_mem_transferTable : ∀ e ∈ transferTable, e.2.2.1 ≠ .adr ∧ e.2.2.1 ≠ .stk := by
  decide

theorem blind_transfer (hk : Hidden k) : ∀ e ∈ transferTable, Blind k e.2.1 := by
  intro e he
  obtain ⟨hadr, hstk⟩ := source_of_mem_transferTable e he
  exact blind_write hk (isWriteRow_of_mem_transferTable e he) fun s v => hk.get_set hadr hstk

theorem blind_div (hk : Hidden k) : Blind k .div := by
  intro s v hf
  have hf' : (s.set k v).fetch = true := (s.set_fetch k v).trans hf
  by_cases hb : s.b = 0
  · refine ⟨_, _, exec_div_zero hb, exec_div_zero (hk.b_set.trans hb), ?_⟩
    rcases hk with rfl | rfl
    · rfl
    · rfl
  · refine ⟨_, _, exec_div hf hb, exec_div hf' (by rwa [hk.b_set]), ?_⟩
    rcases hk with rfl | rfl
    · rfl
    · rfl

theorem blind_relJump (hk : Hidden k) : ∀ e ∈ relJumpTable, ∀ D, Blind k (e.2.1 D) := by
  intro e he D
  refine blind_of_next (fun s hf => (isRelJumpRow_of_mem e he).exec_eq D hf) fun s v => ?_
  simp only [hk.pc_set, hk.byte1_set, hk.relTarget_set]
  exact (agreeOff_set s k v).boundary hk _ _

theorem blind_absJump (hk : Hidden k) : ∀ e ∈ absJumpTable, ∀ w, Blind k (e.2.1 w) := by
  intro e he w
  refine blind_of_next (fun s hf => exec_absJump (isAddressRow_of_mem_absJumpTable e he) w hf)
    fun s v => ?_
  simp only [hk.pc_set, hk.byte2_set, hk.absTarget_set]
  exact ((agreeOff_set s k v).set .adr w).boundary hk _ _

/-! ### Instructions that use the stack do not read the address latch -/

theorem pushed_ne_adr : ∀ e ∈ pushTable, e.2.2.reg ≠ .adr := by decide

theorem blind_adr_push : ∀ e ∈ pushTable, Blind .adr e.2.1 := by
  intro e he
  refine blind_of_next (fun s hf => exec_push (isByteRow_of_mem_pushTable e he) hf) fun s v => ?_
  have pushed : (s.set .adr v).getHalf e.2.2 = s.getHalf e.2.2 :=
    congrArg _ (s.get_set_other v (pushed_ne_adr e he))
  rw [pushed]
  exact (((agreeOff_set s .adr v).set .stk (s.stk - 1)).boundary (.inl rfl) _ _).storeByte _ _

theorem blind_adr_pop : ∀ e ∈ popTable, Blind .adr e.2.1 := by
  intro e he
  refine blind_of_next (fun s hf => (isPopRow_of_mem e he).exec_eq hf) fun s v => ?_
  have h := (agreeOff_set s .adr v).setHalf e.2.2 (s.answer (s.stk + 1) (byte0 s))
  exact (h.set .stk (s.stk + 1)).boundary (.inl rfl) _ _

theorem blind_adr_call (w : Word) : Blind .adr (.call w) :=
  blind_of_next (fun _ hf => exec_call w hf) fun _ _ => rfl

theorem blind_adr_ret : Blind .adr .ret :=
  blind_of_next (fun _ hf => exec_ret hf rfl rfl) fun _ _ => rfl

/-- Every instruction is blind to the address latch. -/
theorem blind_adr (i : Instr) : Blind .adr i := by
  have hadr : Hidden .adr := .inl rfl
  induction i using forall_instr_of_families with
  | halt => exact blind_halt hadr
  | div => exact blind_div hadr
  | ret => exact blind_adr_ret
  | call w => exact blind_adr_call w
  | set e he w => exact blind_set hadr e he w
  | load e he w => exact blind_load hadr e he w
  | store e he w => exact blind_store hadr e he w
  | indirect e he => exact blind_indirect hadr e he
  | push e he => exact blind_adr_push e he
  | pop e he => exact blind_adr_pop e he
  | alu e he => exact blind_alu hadr e he
  | pointer e he => exact blind_pointer hadr e he
  | relJump e he D => exact blind_relJump hadr e he D
  | absJump e he w => exact blind_absJump hadr e he w
  | transfer e he => exact blind_transfer hadr e he

/-- The instructions that read or move the stack pointer as a pointer. -/
def UsesStack (i : Instr) : Prop :=
  (∃ e ∈ pushTable, i = e.2.1) ∨ (∃ e ∈ popTable, i = e.2.1) ∨ (∃ w, i = .call w) ∨ i = .ret

/-- Every other instruction is blind to the stack pointer. -/
theorem blind_stk (i : Instr) : ¬ UsesStack i → Blind .stk i := by
  have hstk : Hidden .stk := .inr rfl
  induction i using forall_instr_of_families with
  | halt => exact fun _ => blind_halt hstk
  | div => exact fun _ => blind_div hstk
  | ret => exact fun h => absurd (.inr (.inr (.inr rfl))) h
  | call w => exact fun h => absurd (.inr (.inr (.inl ⟨w, rfl⟩))) h
  | set e he w => exact fun _ => blind_set hstk e he w
  | load e he w => exact fun _ => blind_load hstk e he w
  | store e he w => exact fun _ => blind_store hstk e he w
  | indirect e he => exact fun _ => blind_indirect hstk e he
  | push e he => exact fun h => absurd (.inl ⟨e, he, rfl⟩) h
  | pop e he => exact fun h => absurd (.inr (.inl ⟨e, he, rfl⟩)) h
  | alu e he => exact fun _ => blind_alu hstk e he
  | pointer e he => exact fun _ => blind_pointer hstk e he
  | relJump e he D => exact fun _ => blind_relJump hstk e he D
  | absJump e he w => exact fun _ => blind_absJump hstk e he w
  | transfer e he => exact fun _ => blind_transfer hstk e he

/-- `fetch` makes no difference to a meaning, which begins with the fetch edge. -/
theorem Blind.exec_agree {i : Instr} (h : Blind k i) (s : State) (v : Word) :
    ∃ t u, exec i s = .next t ∧ exec i (s.set k v) = .next u ∧ AgreeOff k t u := by
  obtain ⟨t, u, ht, hu, hagree⟩ := h { s with fetch := true } v rfl
  have same : State.set { s with fetch := true } k v = { s.set k v with fetch := true } := by
    cases k with
    | pc | stk | adr | a | b | x | y => rfl
  rw [exec_atFetch] at ht
  rw [same, exec_atFetch] at hu
  exact ⟨t, u, ht, hu, hagree⟩

end

end Sys2Proof.Claims

namespace Sys2Proof.Proofs

open Sys2Proof Sys2Proof.Machine Sys2Proof.Claims

/-- Settles O31: every family is blind to `adr`, which its rows fill before they read it. -/
theorem addressLatchIsUnobservable : Obligations.AddressLatchIsUnobservable :=
  fun i s v => (blind_adr i).exec_agree s v

/-- Settles O32: the families that do not use the stack are blind to `stk`. -/
theorem stackPointerIsNotReadable : Obligations.StackPointerIsNotReadable := by
  intro i s v hpush hpop hcall hret
  refine (blind_stk i ?_).exec_agree s v
  rintro (⟨e, he, hi⟩ | ⟨e, he, hi⟩ | ⟨w, hi⟩ | hi)
  · exact hpush e he hi
  · exact hpop e he hi
  · exact hcall w hi
  · exact hret hi

end Sys2Proof.Proofs
end

section
/-! PROOFS. The invariant: every edge keeps it, every step is some edges, and what a step from a boundary
can stop for (10_state.md rule R45, 60_exceptions.md rules R400 to R411). -/

namespace Sys2Proof.Machine

/-! ### A step is some edges -/

/-- Carrying an instruction to its boundary runs edges. -/
theorem State.exists_edges_of_finish {fuel : Nat} {s t : State} (h : s.finish fuel = .next t) :
    ∃ n, State.edges n s = .next t := by
  induction fuel generalizing s with
  | zero => exact ⟨0, h⟩
  | succ fuel ih =>
    rw [State.finish] at h
    split at h
    · exact ⟨0, h⟩
    · split at h
      · next u hu =>
        obtain ⟨n, hn⟩ := ih h
        exact ⟨n + 1, (State.edges_succ_of_edge n hu).trans hn⟩
      · cases h
      · cases h

/-! ### The bus operation of an exec tick -/

/-- The cycle count names no register. -/
theorem State.lastBusOp_countCycle (s : State) (i : Instr) (n : Nat) :
    s.countCycle.lastBusOp i n = s.lastBusOp i n := by
  unfold State.countCycle
  split
  · rfl
  · cases i <;> rfl

theorem State.Latched.countCycle {s : State} {o : BusOp} (h : s.Latched o) :
    s.countCycle.Latched o := by
  cases o with
  | read A => simpa [State.Latched] using h
  | write A v => simpa [State.Latched] using h

/-! ### The parts of the invariant -/

theorem State.ControlOk.halted {s : State} (h : s.ControlOk) (hh : s.halt = true) : s.HaltedOk := by
  rwa [State.ControlOk, if_pos hh] at h

theorem State.ControlOk.log_eq {s : State} (h : s.ControlOk) (hh : s.halt = false) : s.log = [] := by
  rw [State.ControlOk, if_neg (by simp [hh])] at h
  exact h.1

theorem State.ControlOk.inFlight {s : State} (h : s.ControlOk) (hh : s.halt = false)
    (hf : s.fetch = false) : s.InFlightOk := by
  rw [State.ControlOk, if_neg (by simp [hh]), if_neg (by simp [hf])] at h
  exact h.2

theorem controlOk_of_halted {s : State} (hh : s.halt = true) (h : s.HaltedOk) : s.ControlOk := by
  rwa [State.ControlOk, if_pos hh]

theorem controlOk_of_boundary {s : State} (hh : s.halt = false) (hf : s.fetch = true)
    (hlog : s.log = []) (hop : s.opcode = 0) (hst : s.state = 0) : s.ControlOk := by
  rw [State.ControlOk, if_neg (by simp [hh]), if_pos hf]
  exact ⟨hlog, hop, hst⟩

theorem controlOk_of_inFlight {s : State} (hh : s.halt = false) (hf : s.fetch = false)
    (hlog : s.log = []) (h : s.InFlightOk) : s.ControlOk := by
  rw [State.ControlOk, if_neg (by simp [hh]), if_neg (by simp [hf])]
  exact ⟨hlog, h⟩

/-- An edge keeps the platform and the stores, whatever the core does. -/
theorem State.Inv.of_edge {s t : State} (hs : s.Inv) (h : s.edge = .next t) (ht : t.ControlOk) :
    t.Inv := by
  obtain ⟨hp, hstores, -⟩ := hs
  refine ⟨(State.platformOk_congr (State.edge_cfgs h)).trans hp, ?_, ht⟩
  obtain ⟨r, -, hdevices, rfl⟩ := State.edge_cases h
  refine State.storesOk_tickDevices fun d hd => ?_
  rw [hdevices] at hd
  exact hstores d hd

end Sys2Proof.Machine

namespace Sys2Proof.Claims

open Sys2Proof Sys2Proof.Machine

/-! ### The core in flight under the invariant -/

section
variable {s : State}

/-- What an edge of a core in flight leads to: the boundary, `Halted`, or the next cycle. -/
def EdgeOk (s t : State) : Prop :=
  t.ControlOk ∧ (t.fetch = true ∨ t.halt = true ∨ t.state.toNat = s.state.toNat + 1)

/-- The state in which exec cycle 0 halts the core: the devices answer the fetch read again. -/
theorem edgeOk_of_halting {op : Byte} {l : List FaultRecord} {t : State} (hs : InFlight s op 0)
    (hfetch : s.HoldsFetch)
    (ht : t = { s with opcode := op, state := if op = 0 then 0 else 1, halt := true, log := l })
    (hlog : t.LogOk) : EdgeOk s t.tickDevices := by
  obtain ⟨hf, -, -, -, hdata⟩ := hs
  have held : t.HoldsFetch := by
    rw [ht]
    exact hfetch
  rw [State.tickDevices_of_holdsRead (A := t.pc) held]
  subst ht
  exact ⟨controlOk_of_halted rfl ⟨hf, rfl, hdata, held, hlog⟩, .inr (.inl rfl)⟩

/-- A row of cycle 0 that halts the core does not advance, so its cycle is counted (48_halt.md rule R390,
60_exceptions.md rule R403). -/
theorem execTick_of_halting {op : Byte} {l : List FaultRecord} {row : Row} (hs : InFlight s op 0)
    (hop : op ≠ 0) (hrow : row s.bus.data (s.latchOpcode s.bus.data)
      = { s.latchOpcode s.bus.data with halt := true, log := l }) :
    s.execTick s.bus.data row
      = { s with opcode := op, state := if op = 0 then 0 else 1, halt := true, log := l } := by
  obtain ⟨-, -, hstate, hunset, hdata⟩ := hs
  rw [State.execTick, hrow, State.latchOpcode_unset _ hunset, hdata, State.countCycle_set hop, hstate,
    if_neg hop]
  rfl

theorem edge_of_illegal {op : Byte} (hs : InFlight s op 0) (hfetch : s.HoldsFetch) (hlog : s.log = [])
    (hop : opcodeInstr op = none) : ∃ t, s.edge = .next t ∧ EdgeOk s t := by
  have ⟨hf, hh, hstate, hunset, hdata⟩ := hs
  have hrow : dispatchRow (s.latchOpcode s.bus.data).opcode s.state = some illegalRow := by
    rw [State.latchOpcode_unset _ hunset, hdata, dispatchRow, hop]
  have htick := State.execTick_illegalRow (s := s) op hunset hstate
  rw [← hdata] at htick
  refine ⟨_, State.edge_of_tick (State.tick_of_exec hh hf hrow), ?_⟩
  rw [hdata] at htick ⊢
  exact edgeOk_of_halting hs hfetch htick (.inr (.inl ⟨by simp [htick, hlog], by simp [htick, hop]⟩))

/-- A row after which the instruction is in flight leads to the next cycle with its bus operation. -/
theorem edgeOk_of_goingOn {op n : Byte} {i : Instr} {row : Row} {r : State} (hs : InFlight s op n)
    (hlog : s.log = []) (hop : opcodeInstr op = some i)
    (hr : row s.bus.data (s.latchOpcode s.bus.data) = r) (hhalt : r.halt = false)
    (hlogged : r.log = s.log) (hfetched : r.fetch = false) (hkept : r.opcode = op)
    (hcounted : r.state = n) (hnext : n.toNat + 1 < execCycles i)
    (hlatch : r.Latched (r.lastBusOp i (n.toNat + 1))) :
    EdgeOk s (s.execTick s.bus.data row).tickDevices := by
  obtain ⟨-, -, hstate, -⟩ := hs
  have htick : s.execTick s.bus.data row = r.countCycle := by rw [State.execTick, hr]
  have hcycles : execCycles i ≤ 4 := execCycles_le i
  have hset : r.opcode ≠ 0 := hkept ▸ ne_zero_of_opcodeInstr hop
  have hcycle : r.countCycle.tickDevices.state.toNat = n.toNat + 1 := by
    rw [State.tickDevices_state, State.countCycle_set hset, hcounted]
    bv_omega
  have hbus := State.holdsBusOp_tickDevices hlatch.countCycle
  rw [← State.lastBusOp_countCycle, ← State.lastBusOp_tickDevices, ← hcycle] at hbus
  rw [htick]
  refine ⟨controlOk_of_inFlight (by simp [hhalt]) (by simp [hfetched]) (by simp [hlogged, hlog])
    (.inr ⟨by omega, by omega, i, by simp [hkept, hop], by omega, hbus⟩), .inr (.inr ?_)⟩
  rw [hcycle, hstate]

/-- The row of a legal opcode, by what `handlerRows_effect` says it can do. -/
theorem edge_of_legal {op n : Byte} {i : Instr} (hs : InFlight s op n)
    (hfetch : n = 0 → s.HoldsFetch) (hlog : s.log = []) (hop : opcodeInstr op = some i)
    (hn : n.toNat < execCycles i) : ∃ t, s.edge = .next t ∧ EdgeOk s t := by
  have hne := ne_zero_of_opcodeInstr hop
  have hlatched := hs.latched hne
  have ⟨hf, hh, hstate, hcycle⟩ := hs
  obtain ⟨row, hget, -, heffect⟩ := handlerRows_effect i n.toNat hn s.bus.data
    (s.latchOpcode s.bus.data) ((s.latchOpcode_halt _).trans hh) ((s.latchOpcode_fetch _).trans hf)
  refine ⟨_, hs.edge_eq hop hget, ?_⟩
  rw [State.execEdge]
  rcases heffect with ⟨hhalt, hlogged, hfetched, hunset, hzero⟩ |
    ⟨hhalt, hlogged, hfetched, hkept, hcounted, hnext, hlatch⟩ | ⟨hk, rfl, hrow⟩ | ⟨hk, rfl, hb, hrow⟩
  case inl =>
    rw [State.execTick, State.countCycle_unset hunset]
    exact ⟨controlOk_of_boundary hhalt hfetched (by simp [hlogged, hlog]) hunset hzero, .inl hfetched⟩
  case inr.inl =>
    exact edgeOk_of_goingOn hs hlog hop rfl hhalt (hlogged.trans (s.latchOpcode_log _)) hfetched
      (hkept.trans hlatched) ((hcounted.trans (s.latchOpcode_state _)).trans hstate) hnext hlatch
  case inr.inr.inl =>
    obtain rfl : n = 0 := BitVec.eq_of_toNat_eq hk
    have htick := execTick_of_halting hs hne hrow
    exact edgeOk_of_halting hs (hfetch rfl) htick (.inl ⟨by simp [htick, hlog], by simp [htick, hop]⟩)
  case inr.inr.inr =>
    obtain rfl : n = 0 := BitVec.eq_of_toNat_eq hk
    have hdata : s.bus.data = op := (if_pos rfl ▸ hcycle).2
    have htick := execTick_of_halting hs hne hrow
    rw [State.latchOpcode_b] at hb
    exact edgeOk_of_halting hs (hfetch rfl) htick (.inr (.inr
      ⟨by rw [htick]; simp [hlog, hdata], by simp [htick, hop], by simp [htick, hb]⟩))

/-- Under the invariant a core in flight is about to run cycle 0 of any opcode, or a later cycle of a
legal one. -/
theorem edge_of_inFlightOk (hf : s.fetch = false) (hh : s.halt = false) (hlog : s.log = [])
    (h : s.InFlightOk) : ∃ t, s.edge = .next t ∧ EdgeOk s t := by
  rcases h with ⟨hunset, hstate, hfetch⟩ | ⟨hlow, -, i, hop, hcycle, -⟩
  · have hs : InFlight s s.bus.data 0 := ⟨hf, hh, hstate, hunset, rfl⟩
    cases hop : opcodeInstr s.bus.data with
    | none => exact edge_of_illegal hs hfetch hlog hop
    | some i => exact edge_of_legal hs (fun _ => hfetch) hlog hop (execCycles_pos i)
  · have hlater : s.state ≠ 0 := by
      intro hzero
      rw [hzero] at hlow
      cases hlow
    have hs : InFlight s s.opcode s.state := ⟨hf, hh, rfl, by rw [if_neg hlater]⟩
    exact edge_of_legal hs (fun hzero => absurd hzero hlater) hlog hop hcycle

/-- The fetch edge under the invariant: the read of pc is answered. -/
theorem controlOk_fetchEdge (hs : AtBoundary s) (hlog : s.log = []) : s.fetchEdge.ControlOk := by
  have held : s.fetchEdge.HoldsFetch :=
    State.holdsBusOp_tickDevices (s := s.fetchTick) (o := .read s.pc) ⟨rfl, rfl⟩
  exact controlOk_of_inFlight hs.2 rfl hlog (.inl ⟨rfl, rfl, held⟩)

/-! ### Edges and steps under the invariant -/

theorem exists_edge_of_controlOk (h : s.ControlOk) : ∃ t, s.edge = .next t ∧ t.ControlOk := by
  cases hh : s.halt with
  | true =>
    obtain ⟨-, -, -, hfetch, -⟩ := h.halted hh
    exact ⟨s, edge_of_halted hh hfetch, h⟩
  | false =>
    have hlog := h.log_eq hh
    cases hf : s.fetch with
    | true =>
      have hs : AtBoundary s := ⟨hf, hh⟩
      exact ⟨_, hs.edge_eq, controlOk_fetchEdge hs hlog⟩
    | false =>
      obtain ⟨t, ht, hcontrol, -⟩ := edge_of_inFlightOk hf hh hlog (h.inFlight hh hf)
      exact ⟨t, ht, hcontrol⟩

theorem inv_of_edge {t : State} (hs : s.Inv) (h : s.edge = .next t) : t.Inv := by
  have ⟨_, _, hcontrol⟩ := hs
  obtain ⟨u, hu, hok⟩ := exists_edge_of_controlOk hcontrol
  rw [h] at hu
  cases hu
  exact hs.of_edge h hok

theorem inv_of_edges {n : Nat} {t : State} (hs : s.Inv) (h : State.edges n s = .next t) : t.Inv := by
  induction n generalizing s with
  | zero => cases h; exact hs
  | succ n ih =>
    obtain ⟨u, hu, hrest⟩ := State.exists_edge_of_edges_succ h
    exact ih (inv_of_edge hs hu) hrest

/-- Every step that answers a next state has run some edges (40_controller.md rule R183). -/
theorem exists_edges_of_step {t : State} (h : step s = .next t) : ∃ n, State.edges n s = .next t := by
  rcases step_cases s with ⟨-, hstep⟩ | ⟨hp, ⟨-, hstep⟩ | ⟨hh, hf, -⟩ | ⟨-, -, hstep⟩⟩
  · rw [hstep] at h
    cases h
  · exact ⟨1, State.edges_succ_of_edge 0 (hstep ▸ h)⟩
  · have hs : AtBoundary s := ⟨hf, hh⟩
    obtain ⟨m, v, -, hends, hstep⟩ := hs.exists_endsAfter hp
    rw [hstep] at h
    cases h
    exact ⟨m + 1, (hs.edges_succ m).trans hends.edges_eq⟩
  · exact State.exists_edges_of_finish (hstep ▸ h)

theorem cycle_le_of_inFlightOk (h : s.InFlightOk) : s.state.toNat ≤ 3 := by
  rcases h with ⟨-, hzero, -⟩ | ⟨-, hcycle, -⟩
  · rw [hzero]
    decide
  · exact hcycle

/-- Under the invariant a core in flight reaches its boundary or halts within the cycles that are left
(70_reset_and_hazards.md rule R460). -/
theorem exists_endsAfter_of_controlOk {fuel : Nat} (h : s.ControlOk) (hf : s.fetch = false)
    (hh : s.halt = false) (hfuel : maxCycles ≤ s.state.toNat + fuel) :
    ∃ m v, m ≤ fuel ∧ EndsAfter m s v := by
  have hflight := h.inFlight hh hf
  have hcycle := cycle_le_of_inFlightOk hflight
  induction fuel generalizing s with
  | zero => exact absurd hfuel (by simp only [maxCycles]; omega)
  | succ fuel ih =>
    obtain ⟨t, ht, hcontrol, hnext⟩ := edge_of_inFlightOk hf hh (h.log_eq hh) hflight
    by_cases hdone : t.fetch = true ∨ t.halt = true
    · exact ⟨1, t, by omega, .edge hf hh ht (.done hdone)⟩
    · obtain ⟨htf, hth⟩ : t.fetch = false ∧ t.halt = false := by simpa using hdone
      have hcount : t.state.toNat = s.state.toNat + 1 := by simpa [htf, hth] using hnext
      have htflight := hcontrol.inFlight hth htf
      obtain ⟨m, v, hm, hends⟩ := ih hcontrol htf hth (by omega) htflight
        (cycle_le_of_inFlightOk htflight)
      exact ⟨m + 1, v, by omega, .edge hf hh ht hends⟩

/-- A step under the invariant, in all three ways. -/
theorem exists_step_of_inv (hs : s.Inv) :
    ∃ t, step s = .next t ∧ (t.fetch = true ∨ t.halt = true) := by
  obtain ⟨hp, -, hcontrol⟩ := hs
  rcases step_cases s with ⟨hbad, -⟩ | ⟨-, ⟨hh, hstep⟩ | ⟨hh, hf, -⟩ | ⟨hh, hf, hstep⟩⟩
  · rw [hp] at hbad
    cases hbad
  · obtain ⟨-, -, -, hfetch, -⟩ := hcontrol.halted hh
    exact ⟨s, hstep.trans (edge_of_halted hh hfetch), .inr hh⟩
  · obtain ⟨m, v, -, hends, hstep⟩ := AtBoundary.exists_endsAfter ⟨hf, hh⟩ hp
    exact ⟨v, hstep, hends.ended⟩
  · obtain ⟨m, v, hm, hends⟩ :=
      exists_endsAfter_of_controlOk (fuel := maxCycles) hcontrol hf hh (by omega)
    exact ⟨v, hstep.trans (hends.finish_eq hm), hends.ended⟩

/-! ### The reset state and the reasons to stop -/

theorem inv_resetOn {ds : List Device} (hp : platformWf (ds.map (fun d => d.cfg)) = true)
    (hstores : ∀ d ∈ ds, d.storeOk = true) : (State.resetOn ds).Inv :=
  ⟨hp, hstores, controlOk_of_boundary rfl rfl rfl rfl rfl⟩

theorem stopReason_of_running {t : State} (hh : t.halt = false) : t.stopReason = .running := by
  simp [State.stopReason, hh]

/-- From a boundary an instruction other than HALT and DIV leaves the core running. -/
theorem AtBoundary.stopReason_of_exec {i : Instr} {t : State} (hs : AtBoundary s) (hhalt : i ≠ .halt)
    (hdiv : i ≠ .div) (ht : exec i s = .next t) : t.stopReason = .running := by
  obtain ⟨u, hu, -, hstop⟩ := hs.exec_quiet hdiv
  rw [ht] at hu
  cases hu
  exact stopReason_of_running (Bool.eq_false_iff.2 fun h => hhalt (hstop.1 h))

theorem AtBoundary.stopReason_of_div {t : State} (hs : AtBoundary s) (hlog : s.log = [])
    (ht : exec .div s = .next t) :
    t.stopReason = if s.b = 0 then .divideByZero else .running := by
  by_cases hb : s.b = 0
  · rw [exec_div_zero hb] at ht
    cases ht
    simp [State.stopReason, haltedAt, hlog, hb]
  · rw [exec_div hs.1 hb] at ht
    cases ht
    rw [if_neg hb]
    exact stopReason_of_running ((s.set_halt _ _).trans hs.2)

end

end Sys2Proof.Claims

namespace Sys2Proof.Proofs

open Sys2Proof Sys2Proof.Machine Sys2Proof.Claims

/-- Settles O22: at reset the core is at a boundary with nothing in the log. -/
theorem invariantHoldsAtReset : Obligations.InvariantHoldsAtReset := by
  refine ⟨inv_resetOn (by decide) ?_, fun ds hp hstores => inv_resetOn hp hstores⟩
  decide

/-- Settles O23: the halted core, the fetch edge, and the row of the opcode in flight, by what the row
can do. -/
theorem everyEdgeKeepsTheInvariant : Obligations.EveryEdgeKeepsTheInvariant :=
  fun _ _ => inv_of_edge

/-- Settles O24: a step is some edges. -/
theorem everyStepKeepsTheInvariant : Obligations.EveryStepKeepsTheInvariant := by
  intro s t hs h
  obtain ⟨n, hn⟩ := exists_edges_of_step h
  exact inv_of_edges hs hn

/-- Settles O25: no edge lacks its row, and the cycles that are left lead to the boundary. -/
theorem everyStateHasANextStep : Obligations.EveryStateHasANextStep := by
  intro s hs
  have ⟨_, _, hcontrol⟩ := hs
  obtain ⟨t, ht, -⟩ := exists_edge_of_controlOk hcontrol
  exact ⟨⟨t, ht⟩, exists_step_of_inv hs⟩

/-- Settles O26: the step of a halted core is the devices' tick, which only answers the fetch read again
where the invariant holds. -/
theorem haltedIsAbsorbing : Obligations.HaltedIsAbsorbing := by
  have step_eq_edge {s : State} (hh : s.halt = true) (hp : s.platformOk = true) :
      step s = s.edge := by
    simp [step, hp, hh]
  refine ⟨fun s hh hp => ⟨s.tickDevices, ?step, ?core⟩, fun s hs hh => ?inert⟩
  case step => exact (step_eq_edge hh hp).trans (State.edge_of_tick (State.tick_of_halt hh))
  case core => rfl
  case inert =>
    obtain ⟨hp, -, hcontrol⟩ := hs
    obtain ⟨-, -, -, hfetch, -⟩ := hcontrol.halted hh
    exact (step_eq_edge hh hp).trans (edge_of_halted hh hfetch)

/-- Settles O27: the step is the decoded instruction's meaning or the illegal opcode's halt, and each has
its own entry in the log. -/
theorem onlyHaltAndTheTwoFaultsStop : Obligations.OnlyHaltAndTheTwoFaultsStop := by
  intro s t hinv hs hstep
  obtain ⟨hp, -, hcontrol⟩ := hinv
  have hlog := hcontrol.log_eq hs.2
  split
  · next e h =>
    rw [hs.step_of_illegal hp (lookupForm_of_decode_error h), State.takeIllegalOpcode_eq] at hstep
    cases hstep
    simp [State.stopReason, hlog]
  · next h =>
    rw [hs.step_of_decode hp h, exec_halt] at hstep
    cases hstep
    simp [State.stopReason, hlog]
  · next h => exact hs.stopReason_of_div hlog ((hs.step_of_decode hp h).symm.trans hstep)
  · next _ r hhalt hdiv h =>
    exact hs.stopReason_of_exec (fun hi => hhalt r.2 (Prod.ext hi rfl))
      (fun hi => hdiv r.2 (Prod.ext hi rfl)) ((hs.step_of_decode hp h).symm.trans hstep)

/-- Settles O28: a step is some edges, and no edge moves a window. -/
theorem stepsKeepThePlatform : Obligations.StepsKeepThePlatform := by
  intro s t h
  obtain ⟨n, hn⟩ := exists_edges_of_step h
  exact State.edges_cfgs hn

end Sys2Proof.Proofs
end

section
/-! PROOFS. Instructions together: a push and its pop, a store and the next fetch, and loads from an
address that no device claims (20_memory.md sections 2 and 7, 46_stack.md section 2). -/

namespace Sys2Proof.Claims

open Sys2Proof Sys2Proof.Machine

/-! ### Halves of the general registers -/

/-- A half of a, b, x or y: what the half families name (10_state.md rule R32). -/
def GeneralHalf (h : Half) : Prop := h.reg ≠ .pc ∧ h.reg ≠ .adr ∧ h.reg ≠ .stk

theorem generalHalf_of_mem_loadTable : ∀ e ∈ loadTable, GeneralHalf e.2.2 := by
  unfold GeneralHalf
  decide

theorem generalHalf_of_mem_indirectTable : ∀ e ∈ indirectTable, GeneralHalf e.2.2.2 := by
  unfold GeneralHalf
  decide

theorem generalHalf_of_mem_popTable : ∀ e ∈ popTable, GeneralHalf e.2.2 := by
  unfold GeneralHalf
  decide

/-- A half that an instruction has received stands in the state that it leaves at its boundary. -/
theorem getHalf_received {h : Half} (hh : GeneralHalf h) (s : State) (D : Byte) (pc adr stk : Word)
    (bus : Bus) :
    State.getHalf { s.setHalf h D with
      pc := pc, adr := adr, stk := stk, opcode := 0, state := 0, bus := bus } h = D := by
  obtain ⟨hpc, hadr, hstk⟩ := hh
  refine Eq.trans ?_ (s.getHalf_setHalf_same h D)
  obtain ⟨r, p⟩ := h
  cases r with
  | pc => exact absurd rfl hpc
  | adr => exact absurd rfl hadr
  | stk => exact absurd rfl hstk
  | a | b | x | y => rfl

end Sys2Proof.Claims

namespace Sys2Proof.Proofs

open Sys2Proof Sys2Proof.Machine Sys2Proof.Claims

/-- Settles O50: the pop reads one address above the decremented stk, where the pushed byte stands. -/
theorem popUndoesPush : Obligations.PopUndoesPush := by
  intro op op' push pop h hpush hpop s t u ⟨hf, _⟩ hw ht ⟨huf, _⟩ hstk hbyte
  rw [exec_push (isByteRow_of_mem_pushTable _ hpush) hf] at ht
  cases ht
  have above : u.stk + 1 = s.stk := by
    rw [show u.stk = s.stk - 1 from hstk]
    exact BitVec.sub_add_cancel _ _
  have stored : u.memRead (u.stk + 1) = some (s.getHalf h) := by
    rw [above, hbyte, State.memRead_storeByte_same]
    exact if_pos hw
  refine ⟨_, (isPopRow_of_mem _ hpop).exec_eq huf, ?half, above⟩
  case half =>
    rw [State.answer_claimed _ stored]
    exact getHalf_received (generalHalf_of_mem_popTable _ hpop) u _ _ _ _ _

/-- Settles O51: the store's last edge is before the next fetch edge, whose read it answers. -/
theorem storeIsSeenByTheNextFetch : Obligations.StoreIsSeenByTheNextFetch := by
  intro e he s t ⟨hf, hh⟩ hw ht
  rw [(isStoreRow_of_mem e he).exec_eq _ hf] at ht
  cases ht
  refine ⟨⟨hf, hh⟩, State.answer_claimed _ ?_⟩
  rw [State.storeByte_pc, State.memRead_storeByte_same]
  exact if_pos hw

/-- Settles O52: an unclaimed address leaves the latch with the byte of the read before. -/
theorem unclaimedLoadsTakeTheStaleByte : Obligations.UnclaimedLoadsTakeTheStaleByte := by
  intro s ⟨hf, _⟩
  refine ⟨fun e he abs16 hlast hnone => ⟨_, (isLoadRow_of_mem e he).exec_eq abs16 hf, ?load⟩,
    fun e he hop hnone => ⟨_, (isIndirectRow_of_mem e he).exec_eq hf, ?indirect⟩,
    fun e he hop hnone => ⟨_, (isPopRow_of_mem e he).exec_eq hf, ?pop⟩⟩
  case load =>
    rw [State.answer_unclaimed _ hnone, hlast]
    exact getHalf_received (generalHalf_of_mem_loadTable e he) s _ _ _ _ _
  case indirect =>
    rw [State.answer_unclaimed _ hnone, hop]
    exact getHalf_received (generalHalf_of_mem_indirectTable e he) s _ _ _ _ _
  case pop =>
    rw [State.answer_unclaimed _ hnone, hop]
    exact getHalf_received (generalHalf_of_mem_popTable e he) s _ _ _ _ _

end Sys2Proof.Proofs
end

section
/-! PROOFS. The first step after reset, and the bytes that a loader has placed for it
(70_reset_and_hazards.md rules R440 to R445). -/

namespace Sys2Proof.Machine

/-! ### The first opcode -/

/-- The value of the latches before a fetch makes no difference where a device answers the fetch. -/
theorem State.stepFetched_of_claimed {s : State} {v : Byte} (h : s.memRead s.pc = some v) (bus : Bus) :
    State.stepFetched { s with bus := bus } = s.stepFetched := by
  have answered (D : Byte) : s.answer s.pc D = v := State.answer_claimed D h
  have answered' (D : Byte) : State.answer { s with bus := bus } s.pc D = v := answered D
  have bytes : State.instrBytes { s with bus := bus } = s.instrBytes := by
    simp only [State.instrBytes, answered, answered']
    rfl
  have fetched : State.fetchEdge { s with bus := bus } = s.fetchEdge := by
    simp only [State.fetchEdge_eq, answered, answered']
  have run (rows : List Row) (code : List Byte) :
      State.run { s with bus := bus } code rows = s.run code rows := by
    rw [State.run_eq, fetched, State.run_eq]
  simp only [State.stepFetched, bytes, exec_eq_run, State.takeIllegalOpcode, run, answered, answered']

/-! ### Bytes placed from outside -/

/-- A byte placed at a claimed address stands there, and the other addresses are as they were. -/
theorem State.memRead_pokeByte (s : State) {A : Word} (v : Byte) (hA : (s.memRead A).isSome = true)
    (B : Word) : (s.pokeByte A v).memRead B = if B = A then some v else s.memRead B := by
  by_cases hB : B = A
  · obtain ⟨w, hw⟩ := Option.isSome_iff_exists.1 hA
    rw [if_pos hB, hB, State.memRead_pokeByte_same, hw, Option.map_some]
  · rw [if_neg hB, State.memRead_pokeByte_other s v hB]

theorem State.isSome_memRead_pokeByte (s : State) (A B : Word) (v : Byte) :
    ((s.pokeByte A v).memRead B).isSome = (s.memRead B).isSome := by
  by_cases hB : B = A
  · rw [hB, State.memRead_pokeByte_same, Option.isSome_map]
  · rw [State.memRead_pokeByte_other s v hB]

theorem State.pokeBytes_cfgs (bytes : List Byte) (A : Word) (s : State) :
    (State.pokeBytes bytes A s).devices.map (fun d => d.cfg) = s.devices.map (fun d => d.cfg) := by
  induction bytes generalizing A s with
  | nil => rfl
  | cons v bytes ih =>
    rw [State.pokeBytes, ih, State.pokeByte, List.map_map]
    refine List.map_congr_left fun d _ => ?_
    simp only [Function.comp_apply]
    split
    · rfl
    · rfl

/-- Three bytes placed at claimed addresses in a row stand there. -/
theorem State.memRead_pokeBytes (s : State) {A : Word} (u v w : Byte)
    (hfirst : (s.memRead A).isSome = true) (hsecond : (s.memRead (A + 1)).isSome = true)
    (hthird : (s.memRead (A + 2)).isSome = true) :
    (State.pokeBytes [u, v, w] A s).memRead A = some u ∧
    (State.pokeBytes [u, v, w] A s).memRead (A + 1) = some v ∧
    (State.pokeBytes [u, v, w] A s).memRead (A + 2) = some w := by
  have next : A + 1 + 1 = A + 2 := BitVec.add_assoc _ _ _
  have placed (B : Word) : (State.pokeBytes [u, v, w] A s).memRead B
      = if B = A + 2 then some w else if B = A + 1 then some v else if B = A then some u
        else s.memRead B := by
    rw [State.pokeBytes, State.pokeBytes, State.pokeBytes, State.pokeBytes, next,
      State.memRead_pokeByte _ w (by rwa [State.isSome_memRead_pokeByte, State.isSome_memRead_pokeByte]),
      State.memRead_pokeByte _ v (by rwa [State.isSome_memRead_pokeByte]),
      State.memRead_pokeByte _ u hfirst]
  have apart : A ≠ A + 1 ∧ A ≠ A + 2 ∧ A + 1 ≠ A + 2 := by bv_omega
  simp only [placed, apart, if_true, if_false, and_self]

end Sys2Proof.Machine

namespace Sys2Proof.Claims

open Sys2Proof Sys2Proof.Machine

theorem atBoundary_resetOn (ds : List Device) : AtBoundary (State.resetOn ds) := ⟨rfl, rfl⟩

/-- A first opcode byte of 0x00 is illegal (30_encoding.md rule R131). -/
theorem lookupForm_of_first_zero {ds : List Device} (h : byte0 (State.resetOn ds) = 0x00) :
    lookupForm opcodeMap (byte0 (State.resetOn ds)) = none := by
  rw [h]
  rfl

theorem takeIllegalOpcode_resetOn {ds : List Device} (h : byte0 (State.resetOn ds) = 0x00) :
    (State.resetOn ds).takeIllegalOpcode (byte0 (State.resetOn ds)) = { State.resetOn ds with
      fetch := false, halt := true, bus := ⟨0x0000, 0x00, true⟩
      log := [⟨.illegalOpcode, 0x00, 0x0000⟩] } := by
  have answered : (State.resetOn ds).answer 0x0000 0x00 = 0x00 := h
  rw [State.takeIllegalOpcode_eq, h, if_pos rfl, show (State.resetOn ds).pc = 0x0000 from rfl,
    show (State.resetOn ds).bus.data = 0x00 from rfl, answered]
  rfl

theorem step_resetOn_of_first_zero {ds : List Device}
    (hp : platformWf (ds.map (fun d => d.cfg)) = true) (h : byte0 (State.resetOn ds) = 0x00) :
    step (State.resetOn ds) = .next { State.resetOn ds with
      fetch := false, halt := true, bus := ⟨0x0000, 0x00, true⟩
      log := [⟨.illegalOpcode, 0x00, 0x0000⟩] } := by
  rw [(atBoundary_resetOn ds).step_of_illegal hp (lookupForm_of_first_zero h),
    takeIllegalOpcode_resetOn h]

/-! ### The reference platform -/

/-- The reference platform claims the lower half of the address space (20_memory.md rule R95). -/
theorem memRead_reset (A : Word) :
    State.reset.memRead A = if A.toNat < 0x8000 then some 0x00 else none := by
  have fits : DeviceConfig.fits ⟨0x0000, 0x8000, true⟩ = true := by decide
  have base : (0x0000 : Word).toNat = 0 := rfl
  have size : (0x8000 : Word).toNat = 0x8000 := rfl
  have window := Device.claims_iff_of_fits (d := ⟨⟨0x0000, 0x8000, true⟩, []⟩) fits A
  simp only [base, size, Nat.zero_le, true_and, Nat.zero_add] at window
  by_cases hA : A.toNat < 0x8000
  · rw [if_pos hA, State.memRead_of_singleton (s := State.reset) rfl (window.2 hA)]
    rfl
  · have unclaimed : ∀ d ∈ State.reset.devices, d.claims A = false :=
      List.forall_mem_singleton.2 (Bool.eq_false_iff.2 (mt window.1 hA))
    rw [if_neg hA, State.memRead, claimer_eq_none unclaimed, Option.map_none]

/-- Three bytes placed from 0x0000 on stand where the first instruction is fetched. -/
theorem instrBytes_loaded (nbits w : Nat) :
    (State.reset.withFetchWord nbits w).instrBytes = tableBytes nbits w := by
  have claimed (A : Word) (hA : A.toNat < 0x8000) : (State.reset.memRead A).isSome = true := by
    rw [memRead_reset, if_pos hA, Option.isSome_some]
  obtain ⟨first, second, third⟩ := State.memRead_pokeBytes State.reset (A := 0x0000)
    (BitVec.ofNat 8 (w % 2 ^ nbits)) (BitVec.ofNat 8 (w % 2 ^ nbits / 256))
    (BitVec.ofNat 8 (w % 2 ^ nbits / 65536)) (claimed _ (by decide)) (claimed _ (by decide))
    (claimed _ (by decide))
  have sampled {A : Word} {v : Byte} (D : Byte)
      (h : (State.pokeBytes (tableBytes nbits w) 0x0000 State.reset).memRead A = some v) :
      (State.reset.withFetchWord nbits w).answer A D = v := State.answer_claimed D h
  have pc : (State.reset.withFetchWord nbits w).pc = 0x0000 := rfl
  rw [State.instrBytes, pc, sampled _ first, sampled _ second, sampled _ third]
  rfl

end Sys2Proof.Claims

namespace Sys2Proof.Proofs

open Sys2Proof Sys2Proof.Machine Sys2Proof.Claims

/-- Settles O21: without a device at 0x0000 the first opcode is the reset value of the latch, which is
illegal; with one, the fetch edge puts its byte on the bus whatever was there. -/
theorem busResetIsVisibleInOneCase : Obligations.BusResetIsVisibleInOneCase := by
  intro ds hp
  refine ⟨rfl, fun hnone => ⟨?edges, ?halted⟩, fun hclaimed bus => ?claimed⟩
  case halted => exact step_resetOn_of_first_zero hp (State.answer_unclaimed _ hnone)
  case edges =>
    have hs := atBoundary_resetOn ds
    have hrow := lookupForm_of_first_zero (State.answer_unclaimed _ hnone)
    rw [hs.step_of_illegal hp hrow, hs.edges_succ, (endsAfter_of_illegal hs hrow).edges_eq]
  case claimed =>
    obtain ⟨v, hv⟩ := Option.ne_none_iff_exists'.1 hclaimed
    rw [step_at_boundary (s := { State.resetOn ds with bus := bus }) rfl rfl hp,
      step_at_boundary (s := State.resetOn ds) rfl rfl hp]
    exact State.stepFetched_of_claimed hv bus

/-- Settles O20: every claimed address reads 0x00, so the first opcode is 0x00. -/
theorem resetOnTheReferencePlatform : Obligations.ResetOnTheReferencePlatform :=
  ⟨rfl, memRead_reset, step_resetOn_of_first_zero (by decide) rfl⟩

/-- Settles O53: the bytes placed are the ones that the first step decodes. -/
theorem loadedWordRunsFirst : Obligations.LoadedWordRunsFirst := by
  intro nbits w i hi
  have hs : AtBoundary (State.reset.withFetchWord nbits w) := ⟨rfl, rfl⟩
  have hp : (State.reset.withFetchWord nbits w).platformOk = true :=
    State.platformOk_congr (State.pokeBytes_cfgs _ _ State.reset)
  rw [decodeTableWord] at hi
  split at hi
  · next j rest h =>
    cases hi
    rw [← instrBytes_loaded] at h
    exact hs.step_of_decode hp h
  · cases hi

end Sys2Proof.Proofs
end

section
/-! PROOFS. Fixed words, conditions, sign extension and the controller's primitives: statements that the
definitions and the lemmas about them give at once. -/

namespace Sys2Proof.Claims

open Sys2Proof Sys2Proof.Machine

/-- `wrap` takes the successor of a word to the next word (00_scope.md rule R10). -/
theorem wrap_succ (w : Word) : wrap (w.toNat + 1) = w + 1 := by
  rw [wrap_add, wrap_toNat, add_wrap_one]

/-- Two's complement (00_scope.md rule R10; log 9). -/
theorem sext16_eq_wrap (v : Byte) :
    sext16 v = wrap (if v.toNat < 128 then (v.toNat : Int) else (v.toNat : Int) - 256) := by
  have signed : sext16 v = wrap v.toInt := rfl
  rw [signed, BitVec.toInt_eq_toNat_cond]
  congr 1
  split <;> split <;> omega

theorem sext16_toNat (v : Byte) :
    (sext16 v).toNat = if v.toNat < 128 then v.toNat else v.toNat + 0xFF00 := by
  have hv := v.isLt
  rw [sext16_eq_wrap, wrap, BitVec.toNat_ofInt]
  split <;> omega

end Sys2Proof.Claims

namespace Sys2Proof.Proofs

open Sys2Proof Sys2Proof.Machine Sys2Proof.Claims

/-- Settles O1: the decoder evaluates each fixed word. -/
theorem specWordsDecode : Obligations.SpecWordsDecode :=
  ⟨rfl, rfl, rfl, rfl, rfl, rfl, rfl, rfl, rfl, rfl, rfl, rfl, rfl, rfl, rfl, rfl⟩

/-- Settles O6: the sign extension is the signed value modulo 65536. -/
theorem signExtensionIsTwosComplement : Obligations.SignExtensionIsTwosComplement :=
  fun v => ⟨sext16_toNat v, sext16_eq_wrap v⟩

/-- Settles O13: the second branch of the tick. -/
theorem fetchTickRequestsTheOpcode : Obligations.FetchTickRequestsTheOpcode :=
  fun _ ⟨hf, hh⟩ => State.tick_of_fetch hh hf

/-- Settles O14: each primitive by its definition, the next address modulo 65536. -/
theorem controllerPrimitives : Obligations.ControllerPrimitives := by
  intro s c D
  rw [wrap_succ]
  exact ⟨rfl, rfl, rfl⟩

/-- Settles O15: a step from a boundary runs the meaning of what the decoder reads. -/
theorem stepRunsTheDecodedInstruction : Obligations.StepRunsTheDecodedInstruction :=
  fun _ _ _ hs hp h _ => hs.step_of_decode hp h

/-- Settles O17: the exec cycles of each family and the fetch tick. -/
theorem tickCounts : Obligations.TickCounts := by
  have ticks {i : Instr} {n : Nat} (h : execCycles i = n) : ticksOf i = n + 1 := by rw [ticksOf, h]
  exact ⟨fun e he w => ticks ((isSetRow_of_mem e he).cycles_eq w),
    fun e he w => ticks ((isLoadRow_of_mem e he).address.cycles_eq w),
    fun e he w => ticks ((isStoreRow_of_mem e he).address.cycles_eq w),
    fun e he => ticks (isIndirectRow_of_mem e he).byteRow.cycles_eq,
    fun e he => ticks (isWriteRow_of_mem_aluTable e he).byteRow.cycles_eq,
    ticks isByteRow_div.cycles_eq,
    fun e he => ticks (isWriteRow_of_mem_pointerTable e he).byteRow.cycles_eq,
    fun e he v => ticks ((isRelJumpRow_of_mem e he).cycles_eq v),
    fun e he w => ticks ((isAddressRow_of_mem_absJumpTable e he).cycles_eq w),
    fun e he => ticks (isByteRow_of_mem_pushTable e he).cycles_eq,
    fun e he => ticks (isPopRow_of_mem e he).byteRow.cycles_eq,
    fun e he => ticks (isWriteRow_of_mem_transferTable e he).byteRow.cycles_eq,
    fun w => ticks (isAddressRow_call.cycles_eq w), ticks isByteRow_ret.cycles_eq,
    ticks isByteRow_halt.cycles_eq⟩

/-- Settles O42: the conditions are the comparisons of the unsigned values, which are in one order. -/
theorem conditionsCompareUnsigned : Obligations.ConditionsCompareUnsigned := by
  intro s
  refine ⟨holds_iff_condTrue s, ?_⟩
  simp only [condTrue]
  omega

end Sys2Proof.Proofs
end
